-- ==== Sys2Proof/Word.lean ====
section
/-! DEFINITION. The word types of the transaction ports and registers (spec/00_scope.md R5 to R7). -/

namespace Sys2Proof

/-- A byte of a wire record, of a buffer or of the identifier (R7). -/
abbrev Byte := BitVec 8

/-- A 32-bit command word, integer operand, magnitude word or DOUT (R33, R36, R38). -/
abbrev Word := BitVec 32

/-- A configuration register: six bits (R12, R13). -/
abbrev Reg6 := BitVec 6

/-- The 96-bit magnitude `HI : MID : LO` (R9). -/
abbrev Magnitude := BitVec 96

/-- The number of a host agent (R4): the HOST field of a command, read as a number. -/
abbrev HostId := Nat

end Sys2Proof
end

