-- ==== Sys2Proof/Config.lean ====
section
/-! DEFINITION. The constants of the hardware (spec/00_scope.md R5) and the parameters that the spec
leaves open (R6), the latter as constants without a body: nothing can be proved of their values. -/

namespace Sys2Proof.Config

/-- `PREC_MIN` (R5). -/
def precMin : Nat := 1

/-- `PREC_MAX` (R5). -/
def precMax : Nat := 38

/-- `SCALE_MIN` (R5). -/
def scaleMin : Nat := 0

/-- `PREC_RESET` (R5, R79). -/
def precReset : Reg6 := 18#6

/-- `SCALE_RESET` (R5, R79). -/
def scaleReset : Reg6 := 0#6

/-- `REC_LEN`: the length of a wire record (R5, R20). -/
def recLen : Nat := 17

/-- `SIGN_NONNEG`: the sign byte ENC writes for a non-negative value (R5, R21). -/
def signNonneg : Byte := 0x01#8

/-- `SIGN_NEG`: the sign byte of a negative value (R5, R21). -/
def signNeg : Byte := 0x00#8

/-- `PAD`: each of bytes 13 to 16 of a record that ENC writes (R5, R24). -/
def pad : Byte := 0x00#8

/-- Whether a value's own scale counts towards its natural precision: true, as R55 says.
93_implementation_defined.md U7 names this switch and gives its default (log entry 10). -/
def natPrecCountsScale : Bool := true

/-- `CODEC_ID`, open (R6, R65): the bytes GETID returns. No body: a claim that names the bytes must
take them as a premise (log entry 1). -/
opaque codecId : List Byte

/-- How many hosts there are beyond the first, open (R6; log entry 2). -/
opaque furtherHosts : Nat

/-- `N_HOSTS`, open but at least 1 (R6, D26; log entry 2). -/
def nHosts : Nat := furtherHosts + 1

/-- The width of a command's HOST field, the least number of bits that numbers every host (R33). -/
def hostBits : Nat := Nat.clog 2 nHosts

/-- `ARB`, open (R6, R30): the arbiter's `n`-th choice, a number that selects one of the waiting
commands and so its host. No body: every order of the hosts is admitted (log entry 3). It is the arbiter of
the one instance that `step` models; on a platform every instance has an arbiter of its own (log entry
18). -/
opaque arb : Nat → Nat

end Sys2Proof.Config
end

