-- ==== Sys2Proof/Syntax.lean ====
section
/-! DEFINITION. The transactions of the block as data: the decimal value port, the command as it
arrives (spec/30_encoding.md R33), the instruction it decodes to (R39, one constructor per row of
spec/opcode_table.json, with exactly the operands the row reads), and the response (R38). -/

namespace Sys2Proof

/-- A decimal value split into sign indicator, three magnitude words and its own scale (R9):
the port VIN (R36) and the payload field VOUT (R38). -/
structure Value where
  /-- NEG: the sign indicator, true for negative. -/
  neg : Bool
  /-- LO: `M[31:0]`. -/
  lo : Word
  /-- MID: `M[63:32]`. -/
  mid : Word
  /-- HI: `M[95:64]`. -/
  hi : Word
  /-- VSCALE: the value's own scale, unsigned. -/
  vscale : BitVec 8
deriving DecidableEq, Repr

/-- The buffer input BIN (R37): `none` is PRESENT = 0, and `some bs` is PRESENT = 1 with
LEN the length of `bs`. -/
abbrev Buffer := Option (List Byte)

/-- A command transaction (R33): every field travels with every command, read or not. -/
structure Command where
  /-- CMD: the command word (R34). -/
  cmd : Word
  /-- ARG0: the first integer operand (R35). -/
  arg0 : Word
  /-- ARG1: the second integer operand (R35). -/
  arg1 : Word
  /-- VIN: the decimal value input (R36). -/
  vin : Value
  /-- BIN: the byte-buffer input (R37). -/
  bin : Buffer
  /-- HOST: the issuing host (R33). -/
  host : HostId
deriving DecidableEq, Repr

/-- The instructions of DCC-1 (R39), each with the operand fields that it reads. -/
inductive Instr where
  /-- SETP (R47). -/
  | setp (arg0 : Word)
  /-- SETS (R48). -/
  | sets (arg0 : Word)
  /-- CFG (R49). -/
  | cfg (arg0 arg1 : Word)
  /-- GETP (R50). -/
  | getp
  /-- GETS (R51). -/
  | gets
  /-- ENC (R57). -/
  | enc (vin : Value)
  /-- DEC (R59). -/
  | dec (bin : Buffer)
  /-- GETID (R65). -/
  | getid
deriving DecidableEq, Repr

/-- The kinds of response (R68). -/
inductive Kind where
  | ok
  | outOfRange
  | invalidLength
  | illegalCommand
deriving DecidableEq, Repr

/-- The causes that refine a kind (R69); codes 9 to 15 are never produced and have no constructor. -/
inductive Cause where
  | none
  | precRange
  | precBelowScale
  | scaleRange
  | valuePrec
  | bufAbsent
  | bufLen
  | unknownOp
  | rsvNonzero
deriving DecidableEq, Repr

/-- The payload fields of a response (R38). -/
structure Payload where
  /-- DOUT: the result of GETP and GETS. -/
  dout : Word
  /-- W: the wire record ENC produces, 17 bytes. -/
  w : List Byte
  /-- VOUT: the value DEC produces. -/
  vout : Value
  /-- ID: the identifier GETID returns. -/
  id : List Byte
deriving DecidableEq, Repr

/-- A response transaction (R38). -/
structure Response where
  /-- KIND (R68). -/
  kind : Kind
  /-- CAUSE (R69). -/
  cause : Cause
  /-- DOUT, W, VOUT and ID. -/
  payload : Payload
deriving DecidableEq, Repr

/-- A response on its way to the host that issued the command (R33, R77). -/
structure Delivery where
  host : HostId
  response : Response
deriving DecidableEq, Repr

/-- The value with every subfield zero. -/
def Value.zero : Value := ⟨false, 0#32, 0#32, 0#32, 0#8⟩

/-- The payload with every field zero or empty (R38): W is 17 zero bytes (R57), ID is empty
(log entry 11). -/
def Payload.zero : Payload := ⟨0#32, List.replicate 17 0#8, Value.zero, []⟩

/-- A command with this command word whose every operand field is zero or absent, from host 0. -/
def Command.ofWord (cmd : Word) : Command := ⟨cmd, 0#32, 0#32, Value.zero, .none, 0⟩

end Sys2Proof
end

