-- ==== Sys2Proof/WellFormed.lean ====
section
/-! DEFINITION. What a transaction port can carry. Every bit pattern of CMD, ARG0, ARG1 and VIN is
accepted by its port (spec/30_encoding.md R35, R36); what the types leave to check is that LEN fits its
32 bits (R37) and that HOST names a host agent (R4, R33). -/

namespace Sys2Proof

/-- LEN is a 32-bit number (R37). -/
def Buffer.wf : Buffer → Bool
  | .none => true
  | some bs => decide (bs.length < 2 ^ 32)

/-- An instruction whose operands its ports can carry. -/
def Instr.wf : Instr → Bool
  | .setp _ => true
  | .sets _ => true
  | .cfg _ _ => true
  | .getp => true
  | .gets => true
  | .enc _ => true
  | .dec bin => Buffer.wf bin
  | .getid => true

/-- A command transaction that some host agent can issue (R4, R33, R37). -/
def Command.wf (c : Command) : Bool :=
  Buffer.wf c.bin && decide (c.host < Config.nHosts)

end Sys2Proof
end

