-- ==== Sys2Proof/Decode.lean ====
section
/-! DEFINITION. The decoder and, after it, the encoder: both from the command word format
(spec/30_encoding.md R34) and the opcode map (R39 to R43). -/

namespace Sys2Proof

/-! ### Decoder -/

/-- `OP = CMD[7:0]` (R34). -/
def opField (cmd : Word) : Byte := cmd.extractLsb' 0 8

/-- `RSV = CMD[31:8]` (R34). -/
def rsvField (cmd : Word) : BitVec 24 := cmd.extractLsb' 8 24

/-- The opcode map (R39): the instruction that an OP value selects, with the operands it reads taken
from the transaction and every other operand field ignored (R42); `none` for the illegal OP values
(R40). -/
def selectOp (op : Byte) (c : Command) : Option Instr :=
  match op with
  | 0x01#8 => some (.setp c.arg0)
  | 0x02#8 => some (.sets c.arg0)
  | 0x03#8 => some (.cfg c.arg0 c.arg1)
  | 0x04#8 => some .getp
  | 0x05#8 => some .gets
  | 0x10#8 => some (.enc c.vin)
  | 0x11#8 => some (.dec c.bin)
  | 0x20#8 => some .getid
  | _ => .none

/-- Decode a command. An OP outside the map is UNKNOWN_OP whatever RSV is; a mapped OP with a non-zero
RSV is RSV_NONZERO (R40, R41, R70). -/
def decode (c : Command) : Except Cause Instr :=
  match selectOp (opField c.cmd) c with
  | .none => .error .unknownOp
  | some i => if rsvField c.cmd = 0#24 then .ok i else .error .rsvNonzero

/-! ### Encoder -/

/-- The command word of an instruction (R39). -/
def encodeWord : Instr → Word
  | .setp _ => 0x00000001#32
  | .sets _ => 0x00000002#32
  | .cfg _ _ => 0x00000003#32
  | .getp => 0x00000004#32
  | .gets => 0x00000005#32
  | .enc _ => 0x00000010#32
  | .dec _ => 0x00000011#32
  | .getid => 0x00000020#32

/-- The command transaction of an instruction: its command word and operand fields, with the operand
fields it does not read zero or absent, from host 0. -/
def encode (i : Instr) : Command :=
  let c := Command.ofWord (encodeWord i)
  match i with
  | .setp a => { c with arg0 := a }
  | .sets a => { c with arg0 := a }
  | .cfg a b => { c with arg0 := a, arg1 := b }
  | .getp => c
  | .gets => c
  | .enc v => { c with vin := v }
  | .dec b => { c with bin := b }
  | .getid => c

/-- The command transaction of an instruction as host `h` issues it (R33). -/
def encodeFrom (h : HostId) (i : Instr) : Command := { encode i with host := h }

/-! ### The opcode table's numbering -/

/-- The transaction whose low `nbits` bits are those of `w`, in the numbering of
spec/opcode_table.json, every bit above them zero: a command is one 32-bit word (R43), so these are
the command word, and the operand fields are zero and absent (log entry 8). `none` where a bit above
the command word is set: DCC-1 has no such bit. -/
def commandOfTableWord (nbits w : Nat) : Option Command :=
  if w % 2 ^ nbits < 2 ^ 32 then some (Command.ofWord (BitVec.ofNat 32 (w % 2 ^ nbits))) else .none

/-- The instruction that the decoder reads from an instruction whose bits are `w`. -/
def decodeTableWord (nbits w : Nat) : Option Instr :=
  match commandOfTableWord nbits w with
  | .none => .none
  | some c =>
    match decode c with
    | .ok i => some i
    | .error _ => .none

end Sys2Proof
end

