-- ==== Sys2Proof/Machine/State.lean ====
section
/-! DEFINITION. The state of one codec instance: the two configuration registers that are its whole
architectural state (spec/10_state.md R11 to R14), and the transaction ports around them: the command
in flight (R19, R80), the commands that wait (R81), the HOST latch and the response port (R33, R38),
and the model's own two fields, the coming inputs and the arbitration counter. -/

namespace Sys2Proof.Machine

/-- The architectural state of one instance (R11): the two configuration registers. -/
structure Codec where
  /-- PRECISION, register 0 (R12). -/
  precision : Reg6
  /-- SCALE, register 1 (R13). -/
  scale : Reg6
deriving DecidableEq, Repr

/-- What the outside world does at the beginning of one step: the level of reset and the commands that
hosts newly offer, each host's in the order it issues them (R30, R80, R81; log entry 4). -/
structure Input where
  /-- Reset is asserted during this step (R80, R81). -/
  reset : Bool
  /-- The commands newly offered in this step. -/
  offers : List Command
deriving DecidableEq, Repr

/-- One codec instance and its ports. -/
structure State where
  /-- The architectural state (R11). -/
  codec : Codec
  /-- The command accepted and not completed yet; not architectural (R19), removed by reset (R80). -/
  inFlight : Option Command
  /-- HOST of the command executed last: where its response goes (R33, R77). Kept until the next command
  executes, through reset too (DESIGN CHOICE, log entry 6). -/
  issuer : HostId
  /-- The response that leaves in the step that led to this state; not retained (R17, R38; log
  entry 17). -/
  response : Option Delivery
  /-- The commands offered and not accepted yet, the oldest first (R81). -/
  waiting : List Command
  /-- The model's own: the inputs of the coming steps, one sample a step; when the list is empty reset
  is released and nothing is offered (log entry 4). -/
  inputs : List Input
  /-- The model's own: how many arbitrations have happened, the argument of the open arbiter (log
  entry 3). -/
  tick : Nat
deriving DecidableEq, Repr

/-- The reasons a step can fault: none. Every error of this block is a response and the machine goes on
(R66, R68, R73), so no constructor exists; safe, since no outcome of the spec is cut off. -/
inductive Fault where
deriving DecidableEq, Repr

/-- The reasons a step can be refused. -/
inductive Refusal where
  /-- Raised only by an arm of `exec` whose instruction has no meaning yet; no arm is left, so nothing
  raises it. Safe: a refused step has no next state. -/
  | notModelled (mnemonic : String)
deriving DecidableEq, Repr

/-- The registers after reset: PRECISION 18 and SCALE 0 (R79). -/
def Codec.reset : Codec := ⟨Config.precReset, Config.scaleReset⟩

/-- A sample in which reset is released and nothing is offered. -/
def Input.quiet : Input := ⟨false, []⟩

/-- The machine right after reset (R79): the registers at their reset values, nothing in flight, no
response. That nothing has been offered, the HOST latch at 0 and the counter at 0 are the model's
(log entries 3, 4 and 6). -/
def State.reset : State :=
  { codec := Codec.reset, inFlight := .none, issuer := 0, response := .none,
    waiting := [], inputs := [], tick := 0 }

end Sys2Proof.Machine
end

