-- ==== Sys2Proof/Machine/Operands.lean ====
section
/-! DEFINITION. The operand forms: integers (spec/30_encoding.md R35), the decimal value (R36; its
magnitude and natural precision, spec/41_encode.md R54, R55; its denotation, spec/00_scope.md R9), the
buffer (R37), and the range checks over them (spec/40_config.md R47 to R49). -/

namespace Sys2Proof.Machine

/-! ### Integer operands -/

/-- `sint(ARG)`: the operand as a mathematical integer, not truncated (R7, R35). -/
def sint (arg : Word) : Int := arg.toInt

/-- `v[5:0]` of a mathematical integer (R7, R47 to R49). -/
def lowSix (v : Int) : Reg6 := BitVec.ofInt 6 v

/-- `p < 1 or p > 38` (R47, R49). -/
def precOutOfRange (p : Int) : Bool :=
  decide (p < Config.precMin) || decide ((Config.precMax : Int) < p)

/-- `s < 0 or s > bound` (R48 with PRECISION as the bound, R49 with the new precision). -/
def scaleOutOfRange (s bound : Int) : Bool :=
  decide (s < Config.scaleMin) || decide (bound < s)

/-- `zext_32` of a register (R50, R51). -/
def zext32 (r : Reg6) : Word := r.setWidth 32

/-! ### The decimal value -/

/-- `M = uint(HI : MID : LO)` as a 96-bit vector (R9, R23). -/
def magnitude (v : Value) : Magnitude := (v.hi ++ v.mid) ++ v.lo

/-- The value with this sign indicator, magnitude and scale (R9, R45). -/
def valueOf (neg : Bool) (m : Magnitude) (vs : BitVec 8) : Value :=
  ⟨neg, m.extractLsb' 0 32, m.extractLsb' 32 32, m.extractLsb' 64 32, vs⟩

/-- Decimal digits of a number, at most `fuel + 1`: one digit and those of its tenth. -/
def digitCount : Nat → Nat → Nat
  | 0, _ => 1
  | fuel + 1, m => if m < 10 then 1 else digitCount fuel (m / 10) + 1

/-- `ndigits(M)`: the digits of the decimal numeral of `M` without leading zeros, 1 for zero (R54). A
96-bit number has at most 29. -/
def ndigits (m : Magnitude) : Nat := digitCount 28 m.toNat

/-- `NatPrec(v)` (R55): `max(ndigits(M), VS)`; under the alternative reading of U7 the digits alone. -/
def natPrec (v : Value) : Nat :=
  if Config.natPrecCountsScale then max (ndigits (magnitude v)) v.vscale.toNat
  else ndigits (magnitude v)

/-- `num(v) = (-1)^NEG × M × 10^(-VS)`: the number a value denotes (R9). -/
def num (v : Value) : ℚ :=
  (if v.neg then -1 else 1) * ((magnitude v).toNat : ℚ) * (10 : ℚ) ^ (-(v.vscale.toNat : ℤ))

/-! ### The buffer -/

/-- `BIN.PRESENT` (R37). -/
def bufferPresent (b : Buffer) : Bool := b.isSome

/-- `BIN.LEN` as the 32-bit number of the port, 0 where no buffer is present (R37). -/
def bufferLen (b : Buffer) : Word := BitVec.ofNat 32 (b.getD []).length

/-- Byte `k` of a byte sequence (R7); 0 beyond its end, which no command reads. -/
def byteAt (bs : List Byte) (k : Nat) : Byte := bs.getD k 0#8

end Sys2Proof.Machine
end

