-- ==== Sys2Proof/Machine/Flags.lean ====
section
/-! DEFINITION. The block has no status flags (spec/10_state.md R17). What stands in their place is the
status that a response carries: the codes of KIND and CAUSE and which cause belongs to which kind
(spec/60_exceptions.md R68, R69). -/

namespace Sys2Proof.Machine

/-- KIND as the 2-bit number of the response port (R38, R68). -/
def kindCode : Kind → BitVec 2
  | .ok => 0#2
  | .outOfRange => 1#2
  | .invalidLength => 2#2
  | .illegalCommand => 3#2

/-- CAUSE as the 4-bit number of the response port (R38, R69). -/
def causeCode : Cause → BitVec 4
  | .none => 0#4
  | .precRange => 1#4
  | .precBelowScale => 2#4
  | .scaleRange => 3#4
  | .valuePrec => 4#4
  | .bufAbsent => 5#4
  | .bufLen => 6#4
  | .unknownOp => 7#4
  | .rsvNonzero => 8#4

/-- The cause a 4-bit number stands for; `none` for the reserved codes 9 to 15, which are never
produced and which a model that receives one refuses (R69, U14). -/
def causeOfCode (n : BitVec 4) : Option Cause :=
  match n with
  | 0#4 => some .none
  | 1#4 => some .precRange
  | 2#4 => some .precBelowScale
  | 3#4 => some .scaleRange
  | 4#4 => some .valuePrec
  | 5#4 => some .bufAbsent
  | 6#4 => some .bufLen
  | 7#4 => some .unknownOp
  | 8#4 => some .rsvNonzero
  | _ => .none

/-- The kind that a cause refines (R69). -/
def causeKind : Cause → Kind
  | .none => .ok
  | .precRange => .outOfRange
  | .precBelowScale => .outOfRange
  | .scaleRange => .outOfRange
  | .valuePrec => .outOfRange
  | .bufAbsent => .invalidLength
  | .bufLen => .invalidLength
  | .unknownOp => .illegalCommand
  | .rsvNonzero => .illegalCommand

end Sys2Proof.Machine
end

