-- ==== Sys2Proof/Machine/Ops.lean ====
section
/-! DEFINITION. The shared operations: completing a command with a response (spec/00_scope.md R8,
spec/60_exceptions.md R66 to R68), and what the ports do around a command (spec/20_memory.md R30,
spec/70_reset_and_hazards.md R79 to R81). Raising an error is the one shared operation that other
machines have as taking an exception; there is no return from one, because an error changes no control
flow (R73, R74). -/

namespace Sys2Proof.Machine

/-! ### Responses -/

/-- The response of a success (R38, R68). -/
def okResponse (p : Payload) : Response := ⟨.ok, .none, p⟩

/-- The response of an error: its kind and cause, and every payload field zero (R38, R68). -/
def errorResponse (cause : Cause) : Response := ⟨causeKind cause, cause, Payload.zero⟩

/-- `OK()`: no payload field is named, so all are zero (R8). -/
def plainPayload : Payload := Payload.zero

/-- `OK(DOUT = d)` (R50, R51). -/
def doutPayload (d : Word) : Payload := { Payload.zero with dout := d }

/-- `OK(W)` (R57). -/
def recordPayload (w : List Byte) : Payload := { Payload.zero with w := w }

/-- `OK(VOUT)` (R59). -/
def valuePayload (v : Value) : Payload := { Payload.zero with vout := v }

/-- `OK(ID = id)` (R65). -/
def idPayload (id : List Byte) : Payload := { Payload.zero with id := id }

/-- The response leaves, for the host that issued the command (R33, R77). -/
def respond (r : Response) (s : State) : State := { s with response := some ⟨s.issuer, r⟩ }

/-! ### Completing a command -/

/-- `raise`: the command ends with the error response of its cause, and every pending register write is
discarded (R8, R67, R68). Nothing else is saved or changed (R69, R73). -/
def raise (cause : Cause) (s : State) : Host.Outcome State Fault Refusal :=
  .next (respond (errorResponse cause) s)

/-- The command ends with success: its register writes, the new registers, are committed in one update
and the response carries its payload (R8, R67). -/
def commit (k : Codec) (p : Payload) (s : State) : Host.Outcome State Fault Refusal :=
  .next (respond (okResponse p) { s with codec := k })

/-- The command ends with success and writes no register. -/
def answer (p : Payload) (s : State) : Host.Outcome State Fault Refusal := commit s.codec p s

/-! ### The ports around a command -/

/-- The input sample of the coming step: the next of the list, quiet when the list has ended. -/
def currentInput (s : State) : Input :=
  match s.inputs with
  | [] => Input.quiet
  | i :: _ => i

/-- The input sample is taken: its offers join the commands that wait. -/
def sample (s : State) : State :=
  { s with waiting := s.waiting ++ (currentInput s).offers, inputs := s.inputs.tail }

/-- Reset is asserted: the registers take their reset values, the command in flight is aborted with no
response, and offered commands wait (R79, R80, R81; log entry 15). The HOST latch keeps its value, which the
spec does not mention and nothing reads before the next command overwrites it (DESIGN CHOICE, log entry
6), and so does the arbitration counter (DESIGN CHOICE, log entry 3). -/
def assertReset (s : State) : State :=
  { s with codec := Codec.reset, inFlight := .none, response := .none }

/-- The arbiter's choice: the host of one of the waiting commands, `none` when none waits (R4, R30). -/
def arbitrate (choice : Nat) (waiting : List Command) : Option HostId :=
  (waiting[choice % waiting.length]?).map Command.host

/-- The next command is accepted: the oldest of the host that the arbiter chooses, so that each host's
commands keep their order (R30). No response leaves in this step. With nothing waiting the block
idles. -/
def accept (arb : Nat → Nat) (s : State) : State :=
  match arbitrate (arb s.tick) s.waiting with
  | .none => { s with response := .none }
  | some h =>
    { s with
      inFlight := s.waiting.find? (fun c => c.host == h)
      waiting := s.waiting.eraseP (fun c => c.host == h)
      response := .none
      tick := s.tick + 1 }

/-- The command in flight begins to execute: it leaves the flight and its HOST is latched (R33). -/
def start (c : Command) (s : State) : State := { s with inFlight := .none, issuer := c.host }

end Sys2Proof.Machine
end

