-- ==== Sys2Proof/Machine/Configuration.lean ====
section
/-! DEFINITION. The configuration commands SETP, SETS, CFG, GETP and GETS (spec/40_config.md R47 to
R51). Each meaning is its rule's pseudocode; the order of the checks is the priority of R70. -/

namespace Sys2Proof.Machine

/-- SETP (R47). A precision below SCALE is rejected (90_conflicts.md C1). -/
def execSetp (arg0 : Word) (s : State) : Host.Outcome State Fault Refusal :=
  let p := sint arg0
  if precOutOfRange p then raise .precRange s
  else if p < s.codec.scale.toNat then raise .precBelowScale s
  else commit { s.codec with precision := lowSix p } plainPayload s

/-- SETS (R48). -/
def execSets (arg0 : Word) (s : State) : Host.Outcome State Fault Refusal :=
  let sc := sint arg0
  if scaleOutOfRange sc s.codec.precision.toNat then raise .scaleRange s
  else commit { s.codec with scale := lowSix sc } plainPayload s

/-- CFG (R49): both checks before both writes, the scale against the new precision. -/
def execCfg (arg0 arg1 : Word) (s : State) : Host.Outcome State Fault Refusal :=
  let p := sint arg0
  let sc := sint arg1
  if precOutOfRange p then raise .precRange s
  else if scaleOutOfRange sc p then raise .scaleRange s
  else commit ⟨lowSix p, lowSix sc⟩ plainPayload s

/-- GETP (R50). -/
def execGetp (s : State) : Host.Outcome State Fault Refusal :=
  answer (doutPayload (zext32 s.codec.precision)) s

/-- GETS (R51). -/
def execGets (s : State) : Host.Outcome State Fault Refusal :=
  answer (doutPayload (zext32 s.codec.scale)) s

end Sys2Proof.Machine
end

