-- ==== Sys2Proof/Machine/Identity.lean ====
section
/-! DEFINITION. The identifier command (spec/43_identity.md R65). -/

namespace Sys2Proof.Machine

/-- GETID (R65): the constant token, read from no register. -/
def execGetid (s : State) : Host.Outcome State Fault Refusal :=
  answer (idPayload Config.codecId) s

end Sys2Proof.Machine
end

