-- ==== Sys2Proof/Machine/Wire.lean ====
section
/-! DEFINITION. The 17-byte wire record (spec/20_memory.md R20 to R25): its layout, the byte order of its
words, and its image on a bus. -/

namespace Sys2Proof.Machine

/-- A magnitude word as four bytes, the least significant first (R22). -/
def wordBytes (w : Word) : List Byte :=
  [w.extractLsb' 0 8, w.extractLsb' 8 8, w.extractLsb' 16 8, w.extractLsb' 24 8]

/-- The word whose bytes stand at `off .. off+3`, the least significant first (R22, R59). -/
def wordAt (bs : List Byte) (off : Nat) : Word :=
  ((byteAt bs (off + 3) ++ byteAt bs (off + 2)) ++ byteAt bs (off + 1)) ++ byteAt bs off

/-- The sign byte that ENC writes (R21, R57). -/
def signByte (neg : Bool) : Byte := if neg then Config.signNeg else Config.signNonneg

/-- How DEC reads a sign byte: `0x00` is negative, every other value non-negative (R21, R59). -/
def signOfByte (b : Byte) : Bool := b == Config.signNeg

/-- The padding that ENC writes at offsets 13 to 16 (R24). -/
def padding : List Byte := [Config.pad, Config.pad, Config.pad, Config.pad]

/-- The wire record of a value (R20, R57). The value's own scale is not in it (R20, R56). -/
def packRecord (v : Value) : List Byte :=
  signByte v.neg :: (wordBytes v.lo ++ wordBytes v.mid ++ wordBytes v.hi ++ padding)

/-- The value that a record of 17 bytes carries, labelled with `scale` (R59, R60). Bytes 13 to 16 are
not read (R61). -/
def unpackRecord (bs : List Byte) (scale : Reg6) : Value :=
  ⟨signOfByte (byteAt bs 0), wordAt bs 1, wordAt bs 5, wordAt bs 9, scale.setWidth 8⟩

/-- The 136-bit bus image of a record: byte `k` at `WBUS[8k+7 : 8k]` (R25). -/
def packBus (bs : List Byte) : BitVec 136 :=
  bs.foldr (fun b bus => (bus <<< 8) ||| b.setWidth 136) 0#136

/-- The 17 bytes that a bus carries, byte 0 from its least significant bits (R25). -/
def unpackBus (bus : BitVec 136) : List Byte :=
  (List.range Config.recLen).map fun k => bus.extractLsb' (8 * k) 8

end Sys2Proof.Machine
end

