-- ==== Sys2Proof/Machine/Packer.lean ====
section
/-! DEFINITION. The encode and decode commands (spec/41_encode.md R56 to R58, spec/42_decode.md R59 to
R62). -/

namespace Sys2Proof.Machine

/-- ENC (R57): the natural precision is checked against PRECISION; SCALE is not read (R56). -/
def execEnc (vin : Value) (s : State) : Host.Outcome State Fault Refusal :=
  if s.codec.precision.toNat < natPrec vin then raise .valuePrec s
  else answer (recordPayload (packRecord vin)) s

/-- DEC (R59): presence, then length; the value is labelled with SCALE (R60), and neither PRECISION
(R62) nor the padding (R61) is read. -/
def execDec (bin : Buffer) (s : State) : Host.Outcome State Fault Refusal :=
  match bin with
  | .none => raise .bufAbsent s
  | some bs =>
    if bs.length ≠ Config.recLen then raise .bufLen s
    else answer (valuePayload (unpackRecord bs s.codec.scale)) s

end Sys2Proof.Machine
end

