-- ==== Sys2Proof/Machine/Dispatch.lean ====
section
/-! DEFINITION. One arm per instruction of DCC-1 (spec/30_encoding.md R39). -/

namespace Sys2Proof.Machine

def exec (i : Instr) (s : State) : Host.Outcome State Fault Refusal :=
  match i with
  | .setp arg0 => Sys2Proof.Machine.execSetp arg0 s
  | .sets arg0 => Sys2Proof.Machine.execSets arg0 s
  | .cfg arg0 arg1 => Sys2Proof.Machine.execCfg arg0 arg1 s
  | .getp => Sys2Proof.Machine.execGetp s
  | .gets => Sys2Proof.Machine.execGets s
  | .enc vin => Sys2Proof.Machine.execEnc vin s
  | .dec bin => Sys2Proof.Machine.execDec bin s
  | .getid => Sys2Proof.Machine.execGetid s

end Sys2Proof.Machine
end

