-- ==== Sys2Proof/Machine/Step.lean ====
section
/-! DEFINITION. One step of the machine: the input sample is taken; under reset the codec is reset;
otherwise the command in flight executes and its response leaves, or, with none in flight, the next
waiting command is accepted (spec/00_scope.md R2, spec/20_memory.md R30, spec/70_reset_and_hazards.md
R79 to R81; log entries 4 and 5). -/

namespace Sys2Proof.Machine

/-- A command executes: its word is decoded, and a decoded instruction runs; an illegal one ends with
its error response (R40, R41). -/
def execute (c : Command) (s : State) : Host.Outcome State Fault Refusal :=
  match decode c with
  | .ok i => exec i (start c s)
  | .error cause => raise cause (start c s)

/-- One step under the arbiter `arb`, whose `n`-th choice is `arb n` (R6, R30). -/
def stepWith (arb : Nat → Nat) (s : State) : Host.Outcome State Fault Refusal :=
  if (currentInput s).reset then .next (assertReset (sample s))
  else
    match s.inFlight with
    | some c => execute c (sample s)
    | .none => .next (accept arb (sample s))

/-- One step under the open arbiter of the configuration. -/
def step (s : State) : Host.Outcome State Fault Refusal := stepWith Config.arb s

/-- The state in which the command with these bits has been accepted from host 0, reset is released in
the coming step and nothing is offered in it: the next step executes exactly this command (log entry
7). Unchanged where the bits are no command word. -/
def State.withFetchWord (s : State) (nbits w : Nat) : State :=
  match commandOfTableWord nbits w with
  | .none => s
  | some c => { s with inFlight := some c, inputs := Input.quiet :: s.inputs }

end Sys2Proof.Machine
end

