-- ==== Sys2Proof/Machine/Assembler.lean ====
section
/-! DEFINITION. The assembler (spec/30_encoding.md R44 to R46): from source text to instructions, which
`encode` turns into command transactions. Tooling: no step calls it. What the grammar leaves open (white
space, letter case, digits of a hexadecimal word) is settled in log entry 9. -/

namespace Sys2Proof.Machine

/-! ### Tokens -/

/-- The part of a line before its comment: `;` starts one (R44). -/
def stripComment (line : List Char) : List Char := line.takeWhile (fun c => c != ';')

/-- The token that the characters read so far (the latest first) make, if any. -/
def flushToken (current : List Char) : List (List Char) :=
  if current.isEmpty then [] else [current.reverse]

/-- Cut a line into tokens: blanks separate them, and `,`, `[` and `]` are tokens of their own. -/
def tokens : List Char → List Char → List (List Char)
  | [], current => flushToken current
  | c :: cs, current =>
    if c == ' ' || c == '\t' then flushToken current ++ tokens cs []
    else if c == ',' || c == '[' || c == ']' then flushToken current ++ [c] :: tokens cs []
    else tokens cs (c :: current)

/-! ### Numbers -/

/-- The value of a hexadecimal digit of either case. -/
def hexDigit (c : Char) : Option Nat :=
  if '0' ≤ c ∧ c ≤ '9' then some (c.toNat - '0'.toNat)
  else if 'a' ≤ c ∧ c ≤ 'f' then some (c.toNat - 'a'.toNat + 10)
  else if 'A' ≤ c ∧ c ≤ 'F' then some (c.toNat - 'A'.toNat + 10)
  else .none

/-- The value of a decimal digit. -/
def decDigit (c : Char) : Option Nat :=
  if '0' ≤ c ∧ c ≤ '9' then some (c.toNat - '0'.toNat) else .none

/-- The number that digits spell after those already read. -/
def readDigits (digit : Char → Option Nat) (base : Nat) : Nat → List Char → Option Nat
  | acc, [] => some acc
  | acc, c :: cs =>
    match digit c with
    | .none => .none
    | some d => readDigits digit base (acc * base + d) cs

/-- The number that one or more decimal digits spell; leading zeros add nothing (R45). -/
def decNumber (cs : List Char) : Option Nat :=
  if cs.isEmpty then .none else readDigits decDigit 10 0 cs

/-- The number that one or more hexadecimal digits spell. -/
def hexNumber (cs : List Char) : Option Nat :=
  if cs.isEmpty then .none else readDigits hexDigit 16 0 cs

/-- An integer as 32-bit two's complement, refused outside `-2^31 .. 2^31-1` (R44). -/
def intOperand (v : Int) : Option Word :=
  if -(2 ^ 31) ≤ v ∧ v ≤ 2 ^ 31 - 1 then some (BitVec.ofInt 32 v) else .none

/-- `<int>`: a decimal integer, optionally signed, or a `0x` word (R44). -/
def parseInt (t : List Char) : Option Word :=
  match t with
  | '0' :: 'x' :: hs =>
    (hexNumber hs).bind fun n => if n < 2 ^ 32 then some (BitVec.ofNat 32 n) else .none
  | '-' :: ds => (decNumber ds).bind fun n => intOperand (-(n : Int))
  | '+' :: ds => (decNumber ds).bind fun n => intOperand n
  | ds => (decNumber ds).bind fun n => intOperand n

/-! ### Values -/

/-- The value of a sign, a magnitude and a scale, refused where the magnitude is `2^96` or more or the
scale above 255 (R44). -/
def valueOperand (neg : Bool) (m vs : Nat) : Option Value :=
  if m < 2 ^ 96 ∧ vs ≤ 255 then some (valueOf neg (BitVec.ofNat 96 m) (BitVec.ofNat 8 vs)) else .none

/-- `<s><mag>, <vscale>` (R44). -/
def parseSignMag (t vs : List Char) : Option Value :=
  match t with
  | '+' :: ds => (decNumber ds).bind fun m => (decNumber vs).bind fun n => valueOperand false m n
  | '-' :: ds => (decNumber ds).bind fun m => (decNumber vs).bind fun n => valueOperand true m n
  | _ => .none

/-- The unsigned part `d+ [. d+]` of a literal: the magnitude is spelled by all its digits and the scale
counts those after the point (R45). -/
def parseUnsignedLit (neg : Bool) (t : List Char) : Option Value :=
  let whole := t.takeWhile (fun c => c != '.')
  match t.dropWhile (fun c => c != '.') with
  | [] => (decNumber whole).bind fun m => valueOperand neg m 0
  | _ :: fraction =>
    if whole.isEmpty || fraction.isEmpty then .none
    else (decNumber (whole ++ fraction)).bind fun m => valueOperand neg m fraction.length

/-- `<lit> = [+|-] d+ [. d+]` (R45): negative exactly when it starts with `-`. -/
def parseLit (t : List Char) : Option Value :=
  match t with
  | '-' :: u => parseUnsignedLit true u
  | '+' :: u => parseUnsignedLit false u
  | u => parseUnsignedLit false u

/-! ### Buffers -/

/-- `<hh>`: a byte as two hexadecimal digits (R44). -/
def parseByte (t : List Char) : Option Byte :=
  match t with
  | [a, b] => (hexDigit a).bind fun x => (hexDigit b).map fun y => BitVec.ofNat 8 (16 * x + y)
  | _ => .none

/-- The bytes up to the closing bracket, which ends the line (R44). -/
def parseBytes : List (List Char) → Option (List Byte)
  | [] => .none
  | t :: ts =>
    if t = [']'] then (if ts.isEmpty then some [] else .none)
    else (parseByte t).bind fun b => (parseBytes ts).map fun bs => b :: bs

/-- The operand of DEC: `none`, or bytes between brackets (R44). -/
def parseBuffer (ts : List (List Char)) : Option Buffer :=
  match ts with
  | [] => .none
  | t :: rest =>
    if t = ['['] then (parseBytes rest).map some
    else if t = "none".toList ∧ rest.isEmpty then some .none
    else .none

/-! ### Pseudo-instructions and lines -/

/-- `DEFCFG` restores the default bounds without a reset: `CFG 18, 0` (R46). -/
def defcfg : Instr := .cfg 18#32 0#32

/-- `DEC <W-of-previous-ENC>`: decode the record in the W payload of an earlier response (R46); an error
response holds no record. -/
def decOfResponse (r : Response) : Option Instr :=
  if r.kind = .ok then some (.dec (some r.payload.w)) else .none

/-- The instruction with this mnemonic, in capitals, and these operand tokens (R44 to R46). -/
def assembleTokens (mnemonic : List Char) (ts : List (List Char)) : Option Instr :=
  if mnemonic = "SETP".toList then
    match ts with
    | [a] => (parseInt a).map Instr.setp
    | _ => .none
  else if mnemonic = "SETS".toList then
    match ts with
    | [a] => (parseInt a).map Instr.sets
    | _ => .none
  else if mnemonic = "CFG".toList then
    match ts with
    | [a, comma, b] =>
      if comma = [','] then (parseInt a).bind fun x => (parseInt b).map fun y => Instr.cfg x y
      else .none
    | _ => .none
  else if mnemonic = "GETP".toList then
    if ts.isEmpty then some .getp else .none
  else if mnemonic = "GETS".toList then
    if ts.isEmpty then some .gets else .none
  else if mnemonic = "ENC".toList then
    match ts with
    | [lit] => (parseLit lit).map Instr.enc
    | [m, comma, vs] => if comma = [','] then (parseSignMag m vs).map Instr.enc else .none
    | _ => .none
  else if mnemonic = "DEC".toList then (parseBuffer ts).map Instr.dec
  else if mnemonic = "GETID".toList then
    if ts.isEmpty then some .getid else .none
  else if mnemonic = "DEFCFG".toList then
    if ts.isEmpty then some defcfg else .none
  else .none

/-- One line of source (R44): no instruction for a line that is blank or only a comment, one for a
command, `none` where the assembler refuses. Mnemonics are case-insensitive. -/
def assembleLine (line : List Char) : Option (List Instr) :=
  match tokens (stripComment line) [] with
  | [] => some []
  | mnemonic :: ts => (assembleTokens (mnemonic.map Char.toUpper) ts).map fun i => [i]

/-- A program: the commands of its lines in order; refused as a whole if a line is (R16, R44). -/
def assemble : List (List Char) → Option (List Instr)
  | [] => some []
  | l :: ls => (assembleLine l).bind fun is => (assemble ls).map fun js => is ++ js

end Sys2Proof.Machine
end

