-- ==== Sys2Proof/Safety.lean ====
section
/-! DEFINITION. What counts as a safe state (spec/10_state.md R14 and the ports' own forms), and the terms
that claims about runs are stated in: what a run completes and delivers, the commands in sequence without
an arbiter (spec/20_memory.md R30), and several instances side by side (spec/10_state.md R19). -/

namespace Sys2Proof.Machine

/-! ### Safe states -/

/-- INV (R14): `1 ≤ PRECISION ≤ 38` and `0 ≤ SCALE ≤ PRECISION`. -/
abbrev Codec.Inv (k : Codec) : Prop :=
  1 ≤ k.precision.toNat ∧ k.precision.toNat ≤ 38 ∧ k.scale.toNat ≤ k.precision.toNat

/-- The form of a response (R38, R68, R69): KIND is the kind of CAUSE, W has 17 bytes, and an error
carries no payload. -/
abbrev WfResponse (r : Response) : Prop :=
  r.kind = causeKind r.cause ∧ r.payload.w.length = 17 ∧ (r.kind ≠ .ok → r.payload = Payload.zero)

/-- What every state of the machine satisfies: INV; every command it holds or will be offered is one
that a host agent can issue; the HOST latch and the response port name host agents; and the response
has its form. -/
def State.Inv (s : State) : Prop :=
  s.codec.Inv ∧
  (∀ c ∈ s.inFlight, c.wf = true) ∧
  (∀ c ∈ s.waiting, c.wf = true) ∧
  (∀ x ∈ s.inputs, ∀ c ∈ x.offers, c.wf = true) ∧
  s.issuer < Config.nHosts ∧
  (∀ d ∈ s.response, d.host < Config.nHosts ∧ WfResponse d.response)

/-! ### Runs -/

/-- What a run of some steps leaves behind: its last state, the commands it completed and the responses
that left, each in order. -/
structure Run where
  last : State
  completed : List Command
  delivered : List Delivery
deriving DecidableEq, Repr

/-- The command that the coming step completes: the one in flight, unless reset aborts it (R80). -/
def completing (s : State) : List Command :=
  if (currentInput s).reset then [] else s.inFlight.toList

/-- A run of `n` steps under the arbiter `arb`, ended early by a step without a next state. -/
def runWith (arb : Nat → Nat) : Nat → State → Run
  | 0, s => ⟨s, [], []⟩
  | n + 1, s =>
    match stepWith arb s with
    | .next t =>
      let r := runWith arb n t
      ⟨r.last, completing s ++ r.completed, t.response.toList ++ r.delivered⟩
    | .fault _ => ⟨s, [], []⟩
    | .refused _ => ⟨s, [], []⟩

/-- Reset stays released during all the inputs that a state lists, and after them. -/
abbrev NoReset (s : State) : Prop := ∀ x ∈ s.inputs, x.reset = false

/-- Every command that is in flight, waits or is still to be offered, in the order in which each host
issued its own. -/
def outstanding (s : State) : List Command :=
  s.inFlight.toList ++ s.waiting ++ s.inputs.flatMap Input.offers

/-! ### Commands in sequence -/

/-- An instance with these registers and nothing on its ports. -/
def State.idle (k : Codec) : State := { State.reset with codec := k }

/-- One command alone on an idle instance: the registers after it and its response. -/
def serve (k : Codec) (c : Command) : Codec × Option Delivery :=
  match execute c (State.idle k) with
  | .next t => (t.codec, t.response)
  | .fault _ => (k, .none)
  | .refused _ => (k, .none)

/-- Commands one after another, each seeing the registers that the one before it left (R30, R85). -/
def serveAll (k : Codec) : List Command → Codec × List Delivery
  | [] => (k, [])
  | c :: cs =>
    let one := serve k c
    let rest := serveAll one.1 cs
    (rest.1, one.2.toList ++ rest.2)

/-! ### Several instances -/

/-- Codec instances side by side (R4, R19). The spec does not say whether the hosts are numbered once for all
instances, each issuing to one of them, or anew for each: every instance has its own offers, from any host
below the one `Config.nHosts`, so that host `h` of two instances may be one agent or two (DESIGN CHOICE,
log entry 19). -/
structure Platform where
  instances : List State
deriving DecidableEq, Repr

/-- Instance `k` takes a step under its own arbiter `arbs k`; the others stand still. A step without a next
state, or of an instance that does not exist, changes nothing. R4 and R19 do not say whether instances
have one arbiter or each its own (DESIGN CHOICE, log entry 18): `arbs` gives every instance a function of
its own, and statements take every `arbs`, so that the choices of two instances need not agree and may. R19 and R79 to R81 do not say whether
instances share one reset either: each has a reset level in its own inputs, so that one can be reset alone
(DESIGN CHOICE, log entry 20). -/
def Platform.stepInstance (arbs : Nat → Nat → Nat) (k : Nat) (p : Platform) : Platform :=
  match p.instances[k]? with
  | .none => p
  | some s =>
    match stepWith (arbs k) s with
    | .next t => ⟨p.instances.set k t⟩
    | .fault _ => p
    | .refused _ => p

end Sys2Proof.Machine
end

