-- ==== Sys2Proof/Certificates/Slice0/Obligations.lean ====
section
/-! DEFINITION. The statements about this model, for the provers. A response is written out as
`⟨KIND, CAUSE, payload⟩`; `Payload.zero` is the payload whose every field is zero or empty. Where an
outcome is given as `.next { s with … }`, every field that is not named is unchanged: that is the frame. -/

open Sys2Proof Sys2Proof.Machine

/-! ### Reset and the invariant -/

/-- R79: reset leaves PRECISION 18 and SCALE 0, in `State.reset` and in every step under reset, and the pair
satisfies INV. -/
def Obligations.ResetLeavesDefaultConfiguration : Prop :=
  State.reset.codec = ⟨18#6, 0#6⟩ ∧ Codec.Inv ⟨18#6, 0#6⟩ ∧
  ∀ (arb : Nat → Nat) (s : State), (currentInput s).reset = true →
    ∃ t, stepWith arb s = .next t ∧ t.codec = ⟨18#6, 0#6⟩

/-- The state right after reset satisfies the whole invariant. The empty ports and the HOST latch at 0 are
the model's choice (log entries 4, 6 and 17). -/
def Obligations.ResetSatisfiesStateInvariant : Prop := State.reset.Inv

/-- R14: INV holds after reset and after every step from a state that has it, so after every command,
whether it succeeds or fails. -/
def Obligations.ConfigurationInvariantIsKept : Prop :=
  State.reset.codec.Inv ∧
  (∀ (arb : Nat → Nat) (s t : State), s.codec.Inv → stepWith arb s = .next t → t.codec.Inv) ∧
  (∀ s t : State, s.codec.Inv → step s = .next t → t.codec.Inv)

/-- Every step keeps the whole invariant: INV, the form of every response, and that every command held and
every host named is one that exists. -/
def Obligations.StepKeepsStateInvariant : Prop :=
  ∀ s t : State, s.Inv → step s = .next t → t.Inv

/-! ### Decoding -/

/-- Words written out from R39 and R34 decode to the instructions they stand for, and reserved ones to
none. The zero and absent operands (`0#32`, `Value.zero`, `none`) are not from those rules: a table word
numbers the command word alone, and that every operand field above it is zero is the model's choice (log
entry 8). -/
def Obligations.SampleWordsDecode : Prop :=
  decodeTableWord 32 0x00000001 = some (.setp 0#32) ∧
  decodeTableWord 32 0x00000003 = some (.cfg 0#32 0#32) ∧
  decodeTableWord 32 0x00000004 = some .getp ∧
  decodeTableWord 32 0x00000010 = some (.enc Value.zero) ∧
  decodeTableWord 32 0x00000011 = some (.dec none) ∧
  decodeTableWord 32 0x00000020 = some .getid ∧
  decodeTableWord 32 0x00000006 = none ∧
  decodeTableWord 32 0x80000010 = none

/-- R39: a command decodes exactly where CMD equals a listed word, with the operands that row reads. -/
def Obligations.DecodingIsTheOpcodeMap : Prop :=
  ∀ (c : Command) (i : Instr), decode c = .ok i ↔
    (c.cmd = 0x00000001#32 ∧ i = .setp c.arg0) ∨ (c.cmd = 0x00000002#32 ∧ i = .sets c.arg0) ∨
    (c.cmd = 0x00000003#32 ∧ i = .cfg c.arg0 c.arg1) ∨ (c.cmd = 0x00000004#32 ∧ i = .getp) ∨
    (c.cmd = 0x00000005#32 ∧ i = .gets) ∨ (c.cmd = 0x00000010#32 ∧ i = .enc c.vin) ∨
    (c.cmd = 0x00000011#32 ∧ i = .dec c.bin) ∨ (c.cmd = 0x00000020#32 ∧ i = .getid)

/-- Decode and encode agree: the encoding of a well-formed instruction, from any host agent, is a
transaction its ports can carry and decodes to that instruction; and every command that decodes to the
instruction has the encoding's command word, so that no other word means the same. That the encoding sets
the fields an instruction does not read to zero is the model's choice (log entry 8). -/
def Obligations.DecodeInvertsEncode : Prop :=
  ∀ (i : Instr) (h : HostId), i.wf = true → h < Config.nHosts →
    decode (encodeFrom h i) = .ok i ∧ (encodeFrom h i).wf = true ∧
    ∀ c : Command, decode c = .ok i → c.cmd = (encodeFrom h i).cmd

/-- R42: a command ignores every operand field that R39 does not list for it: two commands that agree on
CMD, on HOST and on the listed fields give the same step from every state. -/
def Obligations.UnlistedOperandsAreIgnored : Prop :=
  ∀ (arb : Nat → Nat) (s : State) (c d : Command), c.cmd = d.cmd → c.host = d.host →
    (c.cmd = 0x00000001#32 ∨ c.cmd = 0x00000002#32 ∨ c.cmd = 0x00000003#32 → c.arg0 = d.arg0) →
    (c.cmd = 0x00000003#32 → c.arg1 = d.arg1) →
    (c.cmd = 0x00000010#32 → c.vin = d.vin) →
    (c.cmd = 0x00000011#32 → c.bin = d.bin) →
    stepWith arb { s with inFlight := some c } = stepWith arb { s with inFlight := some d }

/-- R40, R41: a command in flight whose OP is not in the opcode map is answered with
IllegalCommand(UNKNOWN_OP), whatever RSV is, and one whose OP is in the map and whose RSV is not zero with
IllegalCommand(RSV_NONZERO); the registers do not change. -/
def Obligations.IllegalCommandWordsAreAnswered : Prop :=
  ∀ (arb : Nat → Nat) (s : State) (c : Command), s.inFlight = some c →
    (currentInput s).reset = false →
    (c.cmd.toNat % 256 ∉ [1, 2, 3, 4, 5, 16, 17, 32] →
      ∃ t, stepWith arb s = .next t ∧ t.codec = s.codec ∧
        t.response = some ⟨c.host, ⟨.illegalCommand, .unknownOp, Payload.zero⟩⟩) ∧
    (c.cmd.toNat % 256 ∈ [1, 2, 3, 4, 5, 16, 17, 32] → c.cmd.toNat / 256 ≠ 0 →
      ∃ t, stepWith arb s = .next t ∧ t.codec = s.codec ∧
        t.response = some ⟨c.host, ⟨.illegalCommand, .rsvNonzero, Payload.zero⟩⟩)

/-- A step runs the decoded instruction: with a command in flight and reset released, the step is `exec` of
the decoded instruction on the state in which the command has left the flight, its HOST is latched and
the step's input sample has been taken; a command that does not decode ends, on that same state, with the
error response of its cause. The input sample, completion in one step and the HOST latch are the model's
choices (log entries 4, 5 and 6). -/
def Obligations.StepRunsDecodedCommand : Prop :=
  ∀ (s : State) (c : Command), s.inFlight = some c → (currentInput s).reset = false →
    (∀ i : Instr, decode c = .ok i → i.wf = true →
      step s = exec i { s with
        inFlight := none
        issuer := c.host
        waiting := s.waiting ++ (currentInput s).offers
        inputs := s.inputs.tail }) ∧
    (∀ cause : Cause, decode c = .error cause →
      step s = .next { s with
        inFlight := none
        issuer := c.host
        waiting := s.waiting ++ (currentInput s).offers
        inputs := s.inputs.tail
        response := some ⟨c.host, ⟨causeKind cause, cause, Payload.zero⟩⟩ })

/-! ### The configuration commands -/

/-- R47: SETP, every case, with `p = sint(ARG0)`. -/
def Obligations.SetpResult : Prop :=
  ∀ (arg0 : Word) (s : State),
    (∀ c : Command, c.cmd = 0x00000001#32 → decode c = .ok (.setp c.arg0)) ∧
    (arg0.toInt < 1 ∨ 38 < arg0.toInt →
      exec (.setp arg0) s = .next { s with
        response := some ⟨s.issuer, ⟨.outOfRange, .precRange, Payload.zero⟩⟩ }) ∧
    (1 ≤ arg0.toInt → arg0.toInt ≤ 38 → arg0.toInt < s.codec.scale.toNat →
      exec (.setp arg0) s = .next { s with
        response := some ⟨s.issuer, ⟨.outOfRange, .precBelowScale, Payload.zero⟩⟩ }) ∧
    (1 ≤ arg0.toInt → arg0.toInt ≤ 38 → s.codec.scale.toNat ≤ arg0.toInt →
      ∃ p : Reg6, (p.toNat : Int) = arg0.toInt ∧
        exec (.setp arg0) s = .next { s with
          codec := ⟨p, s.codec.scale⟩
          response := some ⟨s.issuer, ⟨.ok, .none, Payload.zero⟩⟩ })

/-- R48: SETS, every case, with `s = sint(ARG0)`. -/
def Obligations.SetsResult : Prop :=
  ∀ (arg0 : Word) (s : State),
    (∀ c : Command, c.cmd = 0x00000002#32 → decode c = .ok (.sets c.arg0)) ∧
    (arg0.toInt < 0 ∨ s.codec.precision.toNat < arg0.toInt →
      exec (.sets arg0) s = .next { s with
        response := some ⟨s.issuer, ⟨.outOfRange, .scaleRange, Payload.zero⟩⟩ }) ∧
    (0 ≤ arg0.toInt → arg0.toInt ≤ s.codec.precision.toNat →
      ∃ sc : Reg6, (sc.toNat : Int) = arg0.toInt ∧
        exec (.sets arg0) s = .next { s with
          codec := ⟨s.codec.precision, sc⟩
          response := some ⟨s.issuer, ⟨.ok, .none, Payload.zero⟩⟩ })

/-- R49: CFG, every case, with `p = sint(ARG0)` and `s = sint(ARG1)`: the scale is checked against the new
precision, and both registers change or neither does. -/
def Obligations.CfgResult : Prop :=
  ∀ (arg0 arg1 : Word) (s : State),
    (∀ c : Command, c.cmd = 0x00000003#32 → decode c = .ok (.cfg c.arg0 c.arg1)) ∧
    (arg0.toInt < 1 ∨ 38 < arg0.toInt →
      exec (.cfg arg0 arg1) s = .next { s with
        response := some ⟨s.issuer, ⟨.outOfRange, .precRange, Payload.zero⟩⟩ }) ∧
    (1 ≤ arg0.toInt → arg0.toInt ≤ 38 → arg1.toInt < 0 ∨ arg0.toInt < arg1.toInt →
      exec (.cfg arg0 arg1) s = .next { s with
        response := some ⟨s.issuer, ⟨.outOfRange, .scaleRange, Payload.zero⟩⟩ }) ∧
    (1 ≤ arg0.toInt → arg0.toInt ≤ 38 → 0 ≤ arg1.toInt → arg1.toInt ≤ arg0.toInt →
      ∃ p sc : Reg6, (p.toNat : Int) = arg0.toInt ∧ (sc.toNat : Int) = arg1.toInt ∧
        exec (.cfg arg0 arg1) s = .next { s with
          codec := ⟨p, sc⟩
          response := some ⟨s.issuer, ⟨.ok, .none, Payload.zero⟩⟩ })

/-- R50, R51: GETP and GETS answer with the register zero-extended to DOUT and change nothing else; under
INV, GETP's DOUT is in 1..38 and GETS's is at most GETP's. -/
def Obligations.GetpGetsResult : Prop :=
  (∀ c : Command, (c.cmd = 0x00000004#32 → decode c = .ok .getp) ∧
    (c.cmd = 0x00000005#32 → decode c = .ok .gets)) ∧
  ∀ s : State, ∃ dp ds : Word,
    dp.toNat = s.codec.precision.toNat ∧ ds.toNat = s.codec.scale.toNat ∧
    exec .getp s = .next { s with
      response := some ⟨s.issuer, ⟨.ok, .none, { Payload.zero with dout := dp }⟩⟩ } ∧
    exec .gets s = .next { s with
      response := some ⟨s.issuer, ⟨.ok, .none, { Payload.zero with dout := ds }⟩⟩ } ∧
    (s.codec.Inv → 1 ≤ dp.toNat ∧ dp.toNat ≤ 38 ∧ ds.toNat ≤ dp.toNat)

/-- CFG reaches every legal pair of registers in one command, from every state, and no other pair: its
success set is exactly the legal pairs (R49, and D12 of 92_eei_decisions.md). -/
def Obligations.CfgReachesExactlyTheLegalPairs : Prop :=
  ∀ (s : State) (k : Codec), k.Inv ↔
    ∃ arg0 arg1 : Word, exec (.cfg arg0 arg1) s = .next { s with
      codec := k
      response := some ⟨s.issuer, ⟨.ok, .none, Payload.zero⟩⟩ }

/-- R84: to lower precision below the current scale, SETP alone fails with PREC_BELOW_SCALE and changes
nothing; SETS first and then SETP, or CFG alone, reach the pair. -/
def Obligations.LoweringPrecisionBelowScale : Prop :=
  ∀ (s : State) (p q : Word), s.codec.Inv → 1 ≤ p.toInt → p.toInt < s.codec.scale.toNat →
    0 ≤ q.toInt → q.toInt ≤ p.toInt →
    (∃ t, exec (.setp p) s = .next t ∧ t.codec = s.codec ∧
      t.response = some ⟨s.issuer, ⟨.outOfRange, .precBelowScale, Payload.zero⟩⟩) ∧
    (∃ t u, exec (.sets q) s = .next t ∧ exec (.setp p) t = .next u ∧
      (u.codec.precision.toNat : Int) = p.toInt ∧ (u.codec.scale.toNat : Int) = q.toInt) ∧
    (∃ u, exec (.cfg p q) s = .next u ∧
      (u.codec.precision.toNat : Int) = p.toInt ∧ (u.codec.scale.toNat : Int) = q.toInt)

/-! ### Encode -/

/-- R54: `ndigits` is the length of the decimal numeral, 1 for zero, at most 29, and the comparator test
against a power of ten decides it. -/
def Obligations.NdigitsIsDecimalLength : Prop :=
  (∀ m : Magnitude, 1 ≤ m.toNat → ndigits m = Nat.log 10 m.toNat + 1) ∧
  ndigits 0#96 = 1 ∧
  ndigits (BitVec.allOnes 96) = 29 ∧
  (∀ m : Magnitude, ndigits m ≤ 29) ∧
  (∀ (m : Magnitude) (p : Nat), 1 ≤ p → (ndigits m ≤ p ↔ m.toNat < 10 ^ p)) ∧
  (∀ (m : Magnitude) (p : Nat), 29 ≤ p → m.toNat < 10 ^ p)

/-- R55: the natural precision is the larger of the digit count and the value's own scale, the sign does
not count, and the hardware test decides it. -/
def Obligations.NaturalPrecisionTest : Prop :=
  (∀ v : Value, natPrec v = max (ndigits (magnitude v)) v.vscale.toNat) ∧
  (∀ (v : Value) (b : Bool), natPrec { v with neg := b } = natPrec v) ∧
  (∀ (v : Value) (p : Nat), 1 ≤ p →
    (natPrec v ≤ p ↔ (magnitude v).toNat < 10 ^ p ∧ v.vscale.toNat ≤ p))

/-- R57: ENC, every case. The magnitude is `LO + MID × 2^32 + HI × 2^64`; the count of its decimal digits is
`Nat.log 10 M + 1` (1 for zero). -/
def Obligations.EncResult : Prop :=
  (∀ c : Command, c.cmd = 0x00000010#32 → decode c = .ok (.enc c.vin)) ∧
  ∀ (v : Value) (s : State) (m : Nat),
    m = v.lo.toNat + v.mid.toNat * 2 ^ 32 + v.hi.toNat * 2 ^ 64 →
    (s.codec.precision.toNat < max (Nat.log 10 m + 1) v.vscale.toNat →
      exec (.enc v) s = .next { s with
        response := some ⟨s.issuer, ⟨.outOfRange, .valuePrec, Payload.zero⟩⟩ }) ∧
    (max (Nat.log 10 m + 1) v.vscale.toNat ≤ s.codec.precision.toNat →
      exec (.enc v) s = .next { s with
        response := some ⟨s.issuer, ⟨.ok, .none, { Payload.zero with
          w := [if v.neg then 0x00#8 else 0x01#8,
            v.lo.extractLsb' 0 8, v.lo.extractLsb' 8 8, v.lo.extractLsb' 16 8, v.lo.extractLsb' 24 8,
            v.mid.extractLsb' 0 8, v.mid.extractLsb' 8 8, v.mid.extractLsb' 16 8, v.mid.extractLsb' 24 8,
            v.hi.extractLsb' 0 8, v.hi.extractLsb' 8 8, v.hi.extractLsb' 16 8, v.hi.extractLsb' 24 8,
            0x00#8, 0x00#8, 0x00#8, 0x00#8] }⟩⟩ })

/-- R56, R58: ENC writes no register, and its response depends only on VIN and PRECISION: on states that
agree on PRECISION, whatever SCALE and everything else, it is the same. -/
def Obligations.EncReadsOnlyPrecision : Prop :=
  ∀ (v : Value) (s u : State), s.codec.precision = u.codec.precision →
    ∃ r : Response,
      exec (.enc v) s = .next { s with response := some ⟨s.issuer, r⟩ } ∧
      exec (.enc v) u = .next { u with response := some ⟨u.issuer, r⟩ }

/-- With PRECISION 29 or more, ENC never fails on a magnitude: only the value's own scale can exceed it
(R54, R57, 90_conflicts.md C3). -/
def Obligations.WidePrecisionAcceptsEveryMagnitude : Prop :=
  ∀ (v : Value) (s : State), 29 ≤ s.codec.precision.toNat →
    v.vscale.toNat ≤ s.codec.precision.toNat →
    ∃ t d, exec (.enc v) s = .next t ∧ t.response = some d ∧ d.response.kind = .ok

/-! ### The wire record -/

/-- R20 to R24 over bytes: the record has 17 bytes, the sign byte first; bytes 1 to 12 are the magnitude as
a little-endian number; bytes 13 to 16 are zero. -/
def Obligations.RecordHoldsMagnitudeLittleEndian : Prop :=
  ∀ v : Value,
    (packRecord v).length = 17 ∧
    byteAt (packRecord v) 0 = (if v.neg then 0x00#8 else 0x01#8) ∧
    (∀ i < 12, (byteAt (packRecord v) (i + 1)).toNat = (magnitude v).toNat / 2 ^ (8 * i) % 256) ∧
    (∀ i, 13 ≤ i → i ≤ 16 → byteAt (packRecord v) i = 0x00#8) ∧
    (magnitude v).toNat = v.lo.toNat + v.mid.toNat * 2 ^ 32 + v.hi.toNat * 2 ^ 64

/-- R25: byte `k` of a record stands at `WBUS[8k+7 : 8k]`, and the bus carries exactly the record. -/
def Obligations.BusCarriesTheRecord : Prop :=
  (∀ bs : List Byte, bs.length = 17 →
    (∀ k < 17, (packBus bs).extractLsb' (8 * k) 8 = byteAt bs k) ∧ unpackBus (packBus bs) = bs) ∧
  (∀ bus : BitVec 136, packBus (unpackBus bus) = bus)

/-! ### Decode -/

/-- R59: DEC, every case: no buffer, a buffer of another length, and the seventeen bytes. -/
def Obligations.DecResult : Prop :=
  (∀ c : Command, c.cmd = 0x00000011#32 → decode c = .ok (.dec c.bin)) ∧
  ∀ s : State,
    exec (.dec none) s = .next { s with
      response := some ⟨s.issuer, ⟨.invalidLength, .bufAbsent, Payload.zero⟩⟩ } ∧
    (∀ bs : List Byte, bs.length ≠ 17 →
      exec (.dec (some bs)) s = .next { s with
        response := some ⟨s.issuer, ⟨.invalidLength, .bufLen, Payload.zero⟩⟩ }) ∧
    (∀ b0 b1 b2 b3 b4 b5 b6 b7 b8 b9 b10 b11 b12 b13 b14 b15 b16 : Byte,
      ∃ vs : BitVec 8, vs.toNat = s.codec.scale.toNat ∧
        exec (.dec (some
            [b0, b1, b2, b3, b4, b5, b6, b7, b8, b9, b10, b11, b12, b13, b14, b15, b16])) s =
          .next { s with
            response := some ⟨s.issuer, ⟨.ok, .none, { Payload.zero with
              vout := ⟨decide (b0 = 0x00#8), b4 ++ b3 ++ b2 ++ b1, b8 ++ b7 ++ b6 ++ b5,
                b12 ++ b11 ++ b10 ++ b9, vs⟩ }⟩⟩ })

/-- R61, R62: DEC reads neither the padding nor PRECISION: on states that agree on SCALE and buffers of 17
bytes that agree on bytes 0 to 12, the response is the same success. -/
def Obligations.DecReadsOnlyScaleAndThirteenBytes : Prop :=
  ∀ (s u : State) (bs cs : List Byte), s.codec.scale = u.codec.scale →
    bs.length = 17 → cs.length = 17 → bs.take 13 = cs.take 13 →
    ∃ r : Response, r.kind = .ok ∧
      exec (.dec (some bs)) s = .next { s with response := some ⟨s.issuer, r⟩ } ∧
      exec (.dec (some cs)) u = .next { u with response := some ⟨u.issuer, r⟩ }

/-- R63: if ENC of a value succeeds, DEC of its record on an instance with the same configuration succeeds
and gives the sign and the magnitude back, labelled with SCALE; the result is the value itself exactly
when its own scale is SCALE. -/
def Obligations.EncodeDecodeRoundTrip : Prop :=
  ∀ (v : Value) (s t u : State) (d : Delivery), exec (.enc v) s = .next t → t.response = some d →
    d.response.kind = .ok → u.codec = s.codec →
    ∃ vout : Value,
      exec (.dec (some d.response.payload.w)) u = .next { u with
        response := some ⟨u.issuer, ⟨.ok, .none, { Payload.zero with vout := vout }⟩⟩ } ∧
      vout.neg = v.neg ∧ magnitude vout = magnitude v ∧ vout.vscale.toNat = s.codec.scale.toNat ∧
      (vout = v ↔ v.vscale.toNat = s.codec.scale.toNat)

/-- R64: a value with own scale `s1`, encoded and then decoded on an instance whose SCALE is `s2`, comes
back as a number `10^(s1 - s2)` times the original. -/
def Obligations.DecodeRescalesTheNumber : Prop :=
  ∀ (v : Value) (s t u : State) (d : Delivery), exec (.enc v) s = .next t → t.response = some d →
    d.response.kind = .ok →
    ∃ (t' : State) (d' : Delivery), exec (.dec (some d.response.payload.w)) u = .next t' ∧
      t'.response = some d' ∧ d'.response.kind = .ok ∧
      num d'.response.payload.vout =
        num v * (10 : ℚ) ^ ((v.vscale.toNat : ℤ) - (u.codec.scale.toNat : ℤ))

/-! ### Identifier -/

/-- R65: GETID answers with CODEC_ID in every state and changes nothing else; whatever CODEC_ID is. -/
def Obligations.GetidResult : Prop :=
  (∀ c : Command, c.cmd = 0x00000020#32 → decode c = .ok .getid) ∧
  ∀ s : State, exec .getid s = .next { s with
    response := some ⟨s.issuer, ⟨.ok, .none, { Payload.zero with id := Config.codecId }⟩⟩ }

/-! ### Errors and responses, over all instructions -/

/-- R67: every instruction ends with one response to its issuer and touches nothing but the registers; an
error leaves the registers as they were and every payload field zero. -/
def Obligations.AllOrNothing : Prop :=
  ∀ (i : Instr) (s : State), ∃ (k : Codec) (r : Response),
    exec i s = .next { s with codec := k, response := some ⟨s.issuer, r⟩ } ∧
    (r.kind ≠ .ok → k = s.codec ∧ r.payload = Payload.zero) ∧
    (r.kind = .ok ↔ r.cause = .none)

/-- The causes each instruction can report, and the numbers of kinds and causes (R68, R69). -/
def Obligations.CausesOfEachInstruction : Prop :=
  (∀ (i : Instr) (s t : State) (d : Delivery), exec i s = .next t → t.response = some d →
    d.response.kind = causeKind d.response.cause ∧
    d.response.cause ∈ (match i with
      | .setp _ => [Cause.none, .precRange, .precBelowScale]
      | .sets _ => [Cause.none, .scaleRange]
      | .cfg _ _ => [Cause.none, .precRange, .scaleRange]
      | .getp => [Cause.none]
      | .gets => [Cause.none]
      | .enc _ => [Cause.none, .valuePrec]
      | .dec _ => [Cause.none, .bufAbsent, .bufLen]
      | .getid => [Cause.none])) ∧
  (∀ c : Cause, causeOfCode (causeCode c) = some c) ∧
  (∀ n : BitVec 4, causeOfCode n = none ↔ 9 ≤ n.toNat)

/-- The numbers of R68 and R69 as the tables give them. -/
def Obligations.StatusCodesAreTheTables : Prop :=
  [Kind.ok, .outOfRange, .invalidLength, .illegalCommand].map kindCode = [0#2, 1#2, 2#2, 3#2] ∧
  [Cause.none, .precRange, .precBelowScale, .scaleRange, .valuePrec, .bufAbsent, .bufLen, .unknownOp,
      .rsvNonzero].map (fun c => (causeCode c, causeKind c)) =
    [(0#4, .ok), (1#4, .outOfRange), (2#4, .outOfRange), (3#4, .outOfRange), (4#4, .outOfRange),
      (5#4, .invalidLength), (6#4, .invalidLength), (7#4, .illegalCommand), (8#4, .illegalCommand)]

/-- R71: a command that failed fails again, with the same response, when it is reissued on the state it
left. -/
def Obligations.FailedCommandFailsAgain : Prop :=
  ∀ (i : Instr) (s t : State) (d : Delivery), exec i s = .next t → t.response = some d →
    d.response.kind ≠ .ok → ∃ u, exec i t = .next u ∧ u.response = some d ∧ u.codec = s.codec

/-! ### Steps, reset and acceptance -/

/-- Every step, from every state, under every arbiter, has a next state: no error stops the machine (R66,
R73, R74). -/
def Obligations.EveryStepHasANextState : Prop :=
  ∀ (arb : Nat → Nat) (s : State), ∃ t, stepWith arb s = .next t

/-- R80: under reset a command in flight is aborted: it produces no response and commits no register write,
and the registers become those of reset. -/
def Obligations.ResetAbortsTheCommandInFlight : Prop :=
  ∀ (arb : Nat → Nat) (s : State) (c : Command), s.inFlight = some c →
    (currentInput s).reset = true →
    ∃ t, stepWith arb s = .next t ∧ t.codec = ⟨18#6, 0#6⟩ ∧ t.inFlight = none ∧ t.response = none

/-- While reset is asserted nothing is accepted, and every command that waits or is offered waits on: a step
under reset changes the registers, the flight, the response port and the inputs it takes, and nothing
else (R81). That a command offered before reset waits through it is deduced (log entry 15); the input
sample, the emptied response port, and that the arbitration counter and the HOST latch are kept, are the
model's choices (log entries 4, 17, 3 and 6). -/
def Obligations.OfferedCommandsWaitThroughReset : Prop :=
  ∀ (arb : Nat → Nat) (s : State), (currentInput s).reset = true →
    stepWith arb s = .next { s with
      codec := ⟨18#6, 0#6⟩
      inFlight := none
      response := none
      waiting := s.waiting ++ (currentInput s).offers
      inputs := s.inputs.tail }

/-- A command in flight completes in one step with exactly one response, to its issuer, when reset is
released (R81; that it takes one step is the model's, log entry 5). -/
def Obligations.AcceptedCommandsComplete : Prop :=
  ∀ (arb : Nat → Nat) (s : State) (c : Command), (currentInput s).reset = false →
    s.inFlight = some c →
    ∃ t d, stepWith arb s = .next t ∧ t.inFlight = none ∧ t.response = some d ∧ d.host = c.host

/-- With reset released and nothing in flight, a step accepts the oldest waiting command of some host; with
nothing waiting it idles. R30 gives the order: the accepted command is its host's oldest, and the others
keep theirs. The rest is the model's choice: that a step never idles while a command waits, and the
counter (log entry 3), the input sample (log entry 4), acceptance as a step of its own (log entry 5) and
the emptied response port (log entry 17). -/
def Obligations.AcceptanceTakesAHostsOldestCommand : Prop :=
  ∀ (arb : Nat → Nat) (s : State) (ws : List Command), (currentInput s).reset = false →
    s.inFlight = none → ws = s.waiting ++ (currentInput s).offers →
    (ws = [] → stepWith arb s = .next { s with
      response := none, waiting := [], inputs := s.inputs.tail }) ∧
    (ws ≠ [] → ∃ (pre post : List Command) (c : Command), ws = pre ++ c :: post ∧
      (∀ x ∈ pre, x.host ≠ c.host) ∧
      stepWith arb s = .next { s with
        inFlight := some c
        response := none
        waiting := pre ++ post
        inputs := s.inputs.tail
        tick := s.tick + 1 })

/-- R17: a response is not retained: no step reads the response port. -/
def Obligations.ResponseIsNeverRead : Prop :=
  ∀ (arb : Nat → Nat) (s : State) (r : Option Delivery),
    stepWith arb { s with response := r } = stepWith arb s

/-- A command's registers and response depend only on the command and the registers before it (R18, R87):
they are those of the command alone on an idle instance. That it completes in this step is the model's
choice (log entry 5). -/
def Obligations.CompletionDependsOnlyOnCommandAndRegisters : Prop :=
  ∀ (arb : Nat → Nat) (s : State) (c : Command), s.inFlight = some c →
    (currentInput s).reset = false →
    ∃ t, stepWith arb s = .next t ∧ (t.codec, t.response) = serve s.codec c

/-- R75: every host may issue every command: the host changes where the response goes and nothing else. -/
def Obligations.HostsHaveOnePrivilegeLevel : Prop :=
  ∀ (k : Codec) (c : Command) (h : HostId),
    serve k { c with host := h } = ((serve k c).1, (serve k c).2.map fun d => { d with host := h })

/-! ### Order -/

/-- R30: over a run without reset, under every arbiter, the responses and the registers are those of the
completed commands executed one after another, and each host's commands complete in the order it issued
them: what it has completed and what it still has outstanding are together what it had outstanding. -/
def Obligations.SequentialConsistency : Prop :=
  ∀ (arb : Nat → Nat) (n : Nat) (s : State), NoReset s →
    serveAll s.codec (runWith arb n s).completed =
      ((runWith arb n s).last.codec, (runWith arb n s).delivered) ∧
    ∀ h : HostId,
      ((runWith arb n s).completed ++ outstanding (runWith arb n s).last).filter (fun c => c.host == h) =
        (outstanding s).filter (fun c => c.host == h)

/-- Every command offered is answered within a bound, whatever order the arbiter chooses. This is a fact
about the model, not a rule of the spec: R81 says only that ACCEPTED commands complete, R86 that they do
so in finite time, and R87 that none blocks on another. That a waiting command is accepted at all rests on
the model's choice never to idle while one waits (log entry 3), and the bound on its inputs (log entry 4)
and on its two steps for a command (log entry 5). -/
def Obligations.EveryOfferedCommandIsAnswered : Prop :=
  ∀ (arb : Nat → Nat) (n : Nat) (s : State), NoReset s →
    s.inputs.length + 2 * (outstanding s).length ≤ n →
    outstanding (runWith arb n s).last = [] ∧
    (runWith arb n s).delivered.length = (outstanding s).length

/-- Two commands that different hosts issue without ordering between them execute in either order (R83):
some arbiter gives each order, and every arbiter gives one of the two, in its responses and its registers
together, each command seeing whole registers. That both have completed after 4 steps is the model's
choice: two steps for a command (log entry 5) and no idling while one waits (log entry 3). -/
def Obligations.UnorderedCommandsHaveBothOutcomes : Prop :=
  ∀ (s : State) (a b : Command), s.inFlight = none → s.waiting = [a, b] → s.inputs = [] →
    a.host ≠ b.host →
    (∃ arb, (runWith arb 4 s).delivered = (serveAll s.codec [a, b]).2 ∧
      (runWith arb 4 s).last.codec = (serveAll s.codec [a, b]).1) ∧
    (∃ arb, (runWith arb 4 s).delivered = (serveAll s.codec [b, a]).2 ∧
      (runWith arb 4 s).last.codec = (serveAll s.codec [b, a]).1) ∧
    (∀ arb,
      ((runWith arb 4 s).delivered = (serveAll s.codec [a, b]).2 ∧
        (runWith arb 4 s).last.codec = (serveAll s.codec [a, b]).1) ∨
      ((runWith arb 4 s).delivered = (serveAll s.codec [b, a]).2 ∧
        (runWith arb 4 s).last.codec = (serveAll s.codec [b, a]).1))

/-- R19: a step of one instance leaves every other as it was, and moves its own as `stepWith` says under that
instance's arbiter, whatever the arbiters are. That each instance has an arbiter of its own is the model's
choice (log entry 18), and so are a platform as a list of instances (log entry 13), offers of its own for
each from hosts below one number (log entry 19), and a reset of its own for each (log entry 20). -/
def Obligations.InstancesShareNoState : Prop :=
  ∀ (arbs : Nat → Nat → Nat) (p : Platform) (k : Nat),
    (∀ j, j ≠ k → (p.stepInstance arbs k).instances[j]? = p.instances[j]?) ∧
    (∀ s t, p.instances[k]? = some s → stepWith (arbs k) s = .next t →
      (p.stepInstance arbs k).instances[k]? = some t)

/-! ### The assembler -/

/-- The examples of R45, and the pseudo-instruction DEFCFG of R46. -/
def Obligations.AssemblerExamples : Prop :=
  assembleLine "ENC 123.45".toList = some [.enc ⟨false, 12345#32, 0#32, 0#32, 2#8⟩] ∧
  assembleLine "ENC -1".toList = some [.enc ⟨true, 1#32, 0#32, 0#32, 0#8⟩] ∧
  assembleLine "ENC 1.50".toList = some [.enc ⟨false, 150#32, 0#32, 0#32, 2#8⟩] ∧
  assembleLine "ENC -0".toList = some [.enc ⟨true, 0#32, 0#32, 0#32, 0#8⟩] ∧
  assembleLine "ENC 0.001".toList = some [.enc ⟨false, 1#32, 0#32, 0#32, 3#8⟩] ∧
  assembleLine "DEFCFG".toList = some [.cfg 18#32 0#32]

/-- The assembler reads back every value: the source line with a sign, the decimal numeral of a magnitude
below `2^96` and that of a scale up to 255 assembles to the ENC of exactly that value (R44; how blanks separate tokens is
the model's, log entry 9). -/
def Obligations.AssembledValueIsTheOneWritten : Prop :=
  ∀ (neg : Bool) (m vs : Nat), m < 2 ^ 96 → vs ≤ 255 →
    ∃ v : Value,
      assembleLine ("ENC ".toList ++ (if neg then '-' else '+') :: Nat.toDigits 10 m ++
        ", ".toList ++ Nat.toDigits 10 vs) = some [.enc v] ∧
      v.neg = neg ∧ (magnitude v).toNat = m ∧ v.vscale.toNat = vs

/-- An integer operand assembles to its 32-bit two's complement, and one outside `-2^31 .. 2^31-1` is
refused (R44; how blanks separate tokens is the model's, log entry 9). -/
def Obligations.AssembledIntegerIsTwosComplement : Prop :=
  ∀ v : Int, ∀ line : List Char,
    line = "SETP ".toList ++ (if v < 0 then ['-'] else []) ++ Nat.toDigits 10 v.natAbs →
    (-(2 ^ 31) ≤ v → v < 2 ^ 31 →
      ∃ w : Word, assembleLine line = some [.setp w] ∧ w.toInt = v) ∧
    (v < -(2 ^ 31) ∨ 2 ^ 31 ≤ v → assembleLine line = none)
end

