-- ==== Sys2Proof/Laws/State.lean ====
section
/-! SUPPORT. One lemma per field for each update of the state that the shared operations make, and the
fields of the state after reset. -/

namespace Sys2Proof.Machine

section
variable (s : State) (r : Response) (c : Command)

@[simp] theorem respond_codec : (respond r s).codec = s.codec := rfl
@[simp] theorem respond_inFlight : (respond r s).inFlight = s.inFlight := rfl
@[simp] theorem respond_issuer : (respond r s).issuer = s.issuer := rfl
@[simp] theorem respond_response : (respond r s).response = some ⟨s.issuer, r⟩ := rfl
@[simp] theorem respond_waiting : (respond r s).waiting = s.waiting := rfl
@[simp] theorem respond_inputs : (respond r s).inputs = s.inputs := rfl
@[simp] theorem respond_tick : (respond r s).tick = s.tick := rfl

@[simp] theorem sample_codec : (sample s).codec = s.codec := rfl
@[simp] theorem sample_inFlight : (sample s).inFlight = s.inFlight := rfl
@[simp] theorem sample_issuer : (sample s).issuer = s.issuer := rfl
@[simp] theorem sample_response : (sample s).response = s.response := rfl
@[simp] theorem sample_waiting : (sample s).waiting = s.waiting ++ (currentInput s).offers := rfl
@[simp] theorem sample_inputs : (sample s).inputs = s.inputs.tail := rfl
@[simp] theorem sample_tick : (sample s).tick = s.tick := rfl

@[simp] theorem assertReset_codec : (assertReset s).codec = Codec.reset := rfl
@[simp] theorem assertReset_inFlight : (assertReset s).inFlight = none := rfl
@[simp] theorem assertReset_issuer : (assertReset s).issuer = s.issuer := rfl
@[simp] theorem assertReset_response : (assertReset s).response = none := rfl
@[simp] theorem assertReset_waiting : (assertReset s).waiting = s.waiting := rfl
@[simp] theorem assertReset_inputs : (assertReset s).inputs = s.inputs := rfl
@[simp] theorem assertReset_tick : (assertReset s).tick = s.tick := rfl

@[simp] theorem start_codec : (start c s).codec = s.codec := rfl
@[simp] theorem start_inFlight : (start c s).inFlight = none := rfl
@[simp] theorem start_issuer : (start c s).issuer = c.host := rfl
@[simp] theorem start_response : (start c s).response = s.response := rfl
@[simp] theorem start_waiting : (start c s).waiting = s.waiting := rfl
@[simp] theorem start_inputs : (start c s).inputs = s.inputs := rfl
@[simp] theorem start_tick : (start c s).tick = s.tick := rfl

end

@[simp] theorem reset_codec : State.reset.codec = Codec.reset := rfl
@[simp] theorem reset_inFlight : State.reset.inFlight = none := rfl
@[simp] theorem reset_issuer : State.reset.issuer = 0 := rfl
@[simp] theorem reset_response : State.reset.response = none := rfl
@[simp] theorem reset_waiting : State.reset.waiting = [] := rfl
@[simp] theorem reset_inputs : State.reset.inputs = [] := rfl
@[simp] theorem reset_tick : State.reset.tick = 0 := rfl

/-- The current input is quiet where no input is listed. -/
theorem currentInput_of_nil {s : State} (h : s.inputs = []) : currentInput s = Input.quiet := by
  simp [currentInput, h]

/-- The current input is the first of the list. -/
theorem currentInput_of_cons {s : State} {x : Input} {xs : List Input} (h : s.inputs = x :: xs) :
    currentInput s = x := by
  simp [currentInput, h]

end Sys2Proof.Machine
end

