-- ==== Sys2Proof/Laws/Ops.lean ====
section
/-! SUPPORT. For each shared operation, once, everything it can do. -/

namespace Sys2Proof.Machine

variable {s t : State}

/-- Raising an error changes the response port and nothing else. -/
theorem raise_next {cause : Cause} (h : raise cause s = .next t) :
    t = { s with response := some ⟨s.issuer, ⟨causeKind cause, cause, Payload.zero⟩⟩ } := by
  simpa [raise, respond, errorResponse] using h.symm

/-- Committing writes the registers given and the response port and nothing else. -/
theorem commit_next {k : Codec} {p : Payload} (h : commit k p s = .next t) :
    t = { s with codec := k, response := some ⟨s.issuer, ⟨.ok, .none, p⟩⟩ } := by
  simpa [commit, respond, okResponse] using h.symm

/-- Answering writes the response port and nothing else. -/
theorem answer_next {p : Payload} (h : answer p s = .next t) :
    t = { s with response := some ⟨s.issuer, ⟨.ok, .none, p⟩⟩ } := by
  simpa using commit_next h

/-- With nothing waiting the arbiter chooses no host. -/
theorem arbitrate_nil (choice : Nat) : arbitrate choice [] = none := by simp [arbitrate]

/-- With a command waiting the arbiter chooses the host of one of the waiting commands. -/
theorem arbitrate_of_ne_nil {ws : List Command} (choice : Nat) (h : ws ≠ []) :
    ∃ c ∈ ws, arbitrate choice ws = some c.host := by
  have hlt : choice % ws.length < ws.length := Nat.mod_lt _ (List.length_pos_iff.mpr h)
  exact ⟨ws[choice % ws.length], List.getElem_mem hlt, by simp [arbitrate, hlt]⟩

/-- The oldest command of a host that has one waiting: what stands before it is of other hosts, and taking
it leaves the rest in order. -/
theorem oldest_split {h : HostId} :
    ∀ {ws : List Command}, (∃ c ∈ ws, c.host = h) →
      ∃ pre c post, ws = pre ++ c :: post ∧ c.host = h ∧ (∀ x ∈ pre, x.host ≠ h) ∧
        ws.find? (fun c => c.host == h) = some c ∧
        ws.eraseP (fun c => c.host == h) = pre ++ post
  | [], hex => by simp at hex
  | w :: ws, hex => by
    by_cases hw : w.host = h
    · exact ⟨[], w, ws, by simp [hw]⟩
    · have hex' : ∃ c ∈ ws, c.host = h := by
        obtain ⟨c, hc, hh⟩ := hex
        rcases List.mem_cons.mp hc with rfl | hc
        · exact absurd hh hw
        · exact ⟨c, hc, hh⟩
      obtain ⟨pre, c, post, hws, hc, hpre, hfind, herase⟩ := oldest_split hex'
      have hwb : (w.host == h) = false := by simp [hw]
      refine ⟨w :: pre, c, post, by simp [hws], hc, ?_, ?_, ?_⟩
      · intro x hx
        rcases List.mem_cons.mp hx with rfl | hx
        · exact hw
        · exact hpre x hx
      · simp [hwb, hfind]
      · simp [hwb, herase]

/-- Accepting: with nothing waiting the response port is emptied; otherwise the oldest command of some host
goes into flight, the others keep their order, and the counter advances. -/
theorem accept_cases (arb : Nat → Nat) (s : State) :
    (s.waiting = [] ∧ accept arb s = { s with response := none }) ∨
    (∃ pre c post, s.waiting = pre ++ c :: post ∧ (∀ x ∈ pre, x.host ≠ c.host) ∧
      accept arb s = { s with
        inFlight := some c
        waiting := pre ++ post
        response := none
        tick := s.tick + 1 }) := by
  by_cases hw : s.waiting = []
  · exact .inl ⟨hw, by simp [accept, hw, arbitrate_nil]⟩
  · obtain ⟨w, hmem, harb⟩ := arbitrate_of_ne_nil (arb s.tick) hw
    obtain ⟨pre, c, post, hws, hc, hpre, hfind, herase⟩ := oldest_split ⟨w, hmem, rfl⟩
    exact .inr ⟨pre, c, post, hws, by simpa [hc] using hpre, by
      simp only [accept, harb]; rw [hfind, herase]⟩

end Sys2Proof.Machine
end

