-- ==== Sys2Proof/Laws/PerInstr.lean ====
section
/-! SUPPORT. Statements about every instruction as syntax, one lemma per constructor. -/

namespace Sys2Proof.Laws

/-- The command word that an instruction encodes to has an OP of the opcode map and a zero RSV, and selects
that instruction with its operands. -/
def EncodedWord.Statement (i : Instr) : Prop :=
  rsvField (encode i).cmd = 0#24 ∧ selectOp (opField (encode i).cmd) (encode i) = some i

/-- From the two fields of a literal command word to the statement. -/
theorem EncodedWord.of_fields {i : Instr} {op : Byte} {cmd : Word} (hcmd : (encode i).cmd = cmd)
    (hop : opField cmd = op) (hrsv : rsvField cmd = 0#24)
    (hsel : selectOp op (encode i) = some i) : EncodedWord.Statement i :=
  ⟨by rw [hcmd, hrsv], by rw [hcmd, hop, hsel]⟩

theorem EncodedWord.setp (arg0 : Word) : EncodedWord.Statement (.setp arg0) :=
  EncodedWord.of_fields (op := 0x01#8) (cmd := 0x00000001#32) rfl (by decide) (by decide) rfl
theorem EncodedWord.sets (arg0 : Word) : EncodedWord.Statement (.sets arg0) :=
  EncodedWord.of_fields (op := 0x02#8) (cmd := 0x00000002#32) rfl (by decide) (by decide) rfl
theorem EncodedWord.cfg (arg0 arg1 : Word) : EncodedWord.Statement (.cfg arg0 arg1) :=
  EncodedWord.of_fields (op := 0x03#8) (cmd := 0x00000003#32) rfl (by decide) (by decide) rfl
theorem EncodedWord.getp : EncodedWord.Statement .getp :=
  EncodedWord.of_fields (op := 0x04#8) (cmd := 0x00000004#32) rfl (by decide) (by decide) rfl
theorem EncodedWord.gets : EncodedWord.Statement .gets :=
  EncodedWord.of_fields (op := 0x05#8) (cmd := 0x00000005#32) rfl (by decide) (by decide) rfl
theorem EncodedWord.enc (vin : Value) : EncodedWord.Statement (.enc vin) :=
  EncodedWord.of_fields (op := 0x10#8) (cmd := 0x00000010#32) rfl (by decide) (by decide) rfl
theorem EncodedWord.dec (bin : Buffer) : EncodedWord.Statement (.dec bin) :=
  EncodedWord.of_fields (op := 0x11#8) (cmd := 0x00000011#32) rfl (by decide) (by decide) rfl
theorem EncodedWord.getid : EncodedWord.Statement .getid :=
  EncodedWord.of_fields (op := 0x20#8) (cmd := 0x00000020#32) rfl (by decide) (by decide) rfl

end Sys2Proof.Laws
end

