-- ==== Sys2Proof/Laws/Ports.lean ====
section
/-! SUPPORT. What a well-formed command's port fields hold. -/

namespace Sys2Proof.Machine

/-- A well-formed command's HOST fits the width of its field (spec/30_encoding.md R33). -/
theorem host_fits {c : Command} (h : c.wf = true) : c.host < 2 ^ Config.hostBits := by
  have hlt : c.host < Config.nHosts := by simpa using (Bool.and_eq_true_iff.mp h).2
  exact hlt.trans_le (Nat.le_pow_clog (by decide) _)

/-- LEN of a well-formed buffer is the number of its bytes (spec/30_encoding.md R37). -/
theorem bufferLen_of_wf {bs : List Byte} (h : Buffer.wf (some bs) = true) :
    (bufferLen (some bs)).toNat = bs.length := by
  have hlt : bs.length < 2 ^ 32 := by simpa [Buffer.wf] using h
  simp only [bufferLen, Option.getD_some, BitVec.toNat_ofNat]
  exact Nat.mod_eq_of_lt hlt

/-- PRESENT tells an absent buffer from an empty one (spec/30_encoding.md R37). -/
theorem bufferPresent_eq (b : Buffer) : bufferPresent b = false ↔ b = none := by
  simp [bufferPresent]

end Sys2Proof.Machine
end

