-- ==== Sys2Proof/Tests/Slice0.lean ====
section
/-! SUPPORT. The model's own tests. Expected values are those of spec/95_test_vectors.md (the section is
named) or worked out by hand from the rule named; then, for every obligation with hypotheses, a concrete
state and operands that meet them together. -/

namespace Sys2Proof.Tests

open Sys2Proof Sys2Proof.Machine

/-! ### Helpers -/

/-- An idle instance with these registers. -/
def regsAt (p sc : Nat) : State := State.idle ⟨BitVec.ofNat 6 p, BitVec.ofNat 6 sc⟩

/-- The state after an outcome, if there is one. -/
def after (o : Host.Outcome State Fault Refusal) : Option State :=
  match o with
  | .next t => some t
  | .fault _ => none
  | .refused _ => none

/-- The registers after an outcome. -/
def regs (o : Host.Outcome State Fault Refusal) : Option (Nat × Nat) :=
  (after o).map fun t => (t.codec.precision.toNat, t.codec.scale.toNat)

/-- The response that leaves with an outcome. -/
def resp (o : Host.Outcome State Fault Refusal) : Option Response :=
  (after o).bind fun t => t.response.map Delivery.response

/-- The numbers of KIND and CAUSE of that response. -/
def status (o : Host.Outcome State Fault Refusal) : Option (Nat × Nat) :=
  (resp o).map fun r => ((kindCode r.kind).toNat, (causeCode r.cause).toNat)

/-- A value from sign, magnitude and scale. -/
def val (neg : Bool) (m vs : Nat) : Value := valueOf neg (BitVec.ofNat 96 m) (BitVec.ofNat 8 vs)

/-- An idle instance with this command in flight. -/
def flying (p sc : Nat) (c : Command) : State := { regsAt p sc with inFlight := some c }

/-! ### WellFormed refuses an ill-formed term for each of its checks -/

theorem test_wf_refuses_len_over_32_bits :
    (Instr.dec (some (List.replicate (2 ^ 32) 0#8))).wf = false := by
  simp only [Instr.wf, Buffer.wf, List.length_replicate, lt_self_iff_false, decide_false]

theorem test_wf_refuses_unknown_host :
    ({ Command.ofWord 1#32 with host := Config.nHosts } : Command).wf = false := by
  simp [Command.wf]

theorem test_wf_accepts_absent_buffer : (Instr.dec none).wf = true := by decide

/-! ### Decoding: the words of R39, bit 31 on the left, RSV and then OP -/

theorem test_decode_setp : decode ({ Command.ofWord
    0b00000000000000000000000000000001#32 with arg0 := 7#32 }) = .ok (.setp 7#32) := rfl
theorem test_decode_sets : decode ({ Command.ofWord
    0b00000000000000000000000000000010#32 with arg0 := 7#32 }) = .ok (.sets 7#32) := rfl
theorem test_decode_cfg : decode ({ Command.ofWord
    0b00000000000000000000000000000011#32 with arg0 := 7#32, arg1 := 8#32 }) = .ok (.cfg 7#32 8#32) := rfl
theorem test_decode_getp : decode (Command.ofWord
    0b00000000000000000000000000000100#32) = .ok .getp := rfl
theorem test_decode_gets : decode (Command.ofWord
    0b00000000000000000000000000000101#32) = .ok .gets := rfl
theorem test_decode_enc : decode ({ Command.ofWord
    0b00000000000000000000000000010000#32 with vin := val true 9 1 }) = .ok (.enc (val true 9 1)) := rfl
theorem test_decode_dec : decode ({ Command.ofWord
    0b00000000000000000000000000010001#32 with bin := some [6#8] }) = .ok (.dec (some [6#8])) := rfl
theorem test_decode_getid : decode (Command.ofWord
    0b00000000000000000000000000100000#32) = .ok .getid := rfl

/-- 2.8: OP 0x00 with RSV 1 is UNKNOWN_OP first; 0x101 and 0x80000010 are RSV_NONZERO. -/
theorem test_decode_illegal_priority :
    decode (Command.ofWord 0x00000100#32) = .error .unknownOp ∧
    decode (Command.ofWord 0x00000021#32) = .error .unknownOp ∧
    decode (Command.ofWord 0x00000101#32) = .error .rsvNonzero ∧
    decode (Command.ofWord 0x80000010#32) = .error .rsvNonzero := ⟨rfl, rfl, rfl, rfl⟩

/-- The table's numbering, and that the first step after reset runs the word: SETP 0 is PREC_RANGE, and
`DEC none` is BUF_ABSENT. -/
theorem test_withFetchWord_runs_it :
    status (step (State.reset.withFetchWord 32 0x01)) = some (1, 1) ∧
    status (step (State.reset.withFetchWord 32 0x11)) = some (2, 5) := by decide

/-! ### One step of each instruction -/

/-- 2.1: 294 is refused, not read as 294 mod 64 = 38. -/
theorem test_setp_is_not_truncated :
    status (exec (.setp 0x126#32) (regsAt 18 0)) = some (1, 1) ∧
    regs (exec (.setp 0x126#32) (regsAt 18 0)) = some (18, 0) := by decide

/-- 2.1: at SCALE 10, 9 fails with PREC_BELOW_SCALE and 10 succeeds. -/
theorem test_setp_at_scale :
    status (exec (.setp 9#32) (regsAt 18 10)) = some (1, 2) ∧
    regs (exec (.setp 10#32) (regsAt 18 10)) = some (10, 10) := by decide

/-- 2.2: 18 succeeds at PRECISION 18, 19 fails. -/
theorem test_sets_at_precision :
    regs (exec (.sets 18#32) (regsAt 18 0)) = some (18, 18) ∧
    status (exec (.sets 19#32) (regsAt 18 0)) = some (1, 3) := by decide

/-- 2.2: -1 fails and leaves SCALE. -/
theorem test_sets_negative :
    status (exec (.sets 0xFFFFFFFF#32) (regsAt 18 4)) = some (1, 3) ∧
    regs (exec (.sets 0xFFFFFFFF#32) (regsAt 18 4)) = some (18, 4) := by decide

/-- 2.3: CFG 5, 2 from (18, 10): the scale check uses the new precision. -/
theorem test_cfg_uses_new_precision :
    regs (exec (.cfg 5#32 2#32) (regsAt 18 10)) = some (5, 2) ∧
    status (exec (.cfg 5#32 6#32) (regsAt 18 0)) = some (1, 3) := by decide

/-- 2.3: CFG 40, 50 reports the precision first and changes nothing. -/
theorem test_cfg_precision_first :
    status (exec (.cfg 40#32 50#32) (regsAt 18 3)) = some (1, 1) ∧
    regs (exec (.cfg 40#32 50#32) (regsAt 18 3)) = some (18, 3) := by decide

/-- 2.4. -/
theorem test_getp : (resp (exec .getp (regsAt 5 2))).map (fun r => r.payload.dout) = some 5#32 := by decide

/-- 2.4. -/
theorem test_gets : (resp (exec .gets (regsAt 38 38))).map (fun r => r.payload.dout) = some 0x26#32 := by
  decide

/-- 2.5: the row whose bytes show word order and byte order at once. -/
theorem test_enc_byte_order :
    (resp (exec (.enc (val false 0x0102030405060708090A0B0C 0)) (regsAt 38 0))).map
        (fun r => r.payload.w.map BitVec.toNat) =
      some [1, 0x0C, 0x0B, 0x0A, 9, 8, 7, 6, 5, 4, 3, 2, 1, 0, 0, 0, 0] := by decide

/-- 2.5: the boundary 10^28 at PRECISION 28, and a small value whose own scale is too large. -/
theorem test_enc_precision_boundary :
    status (exec (.enc (val false (10 ^ 28 - 1) 0)) (regsAt 28 0)) = some (0, 0) ∧
    status (exec (.enc (val false (10 ^ 28) 0)) (regsAt 28 0)) = some (1, 4) ∧
    status (exec (.enc (val false 1 3)) (regsAt 2 0)) = some (1, 4) := by decide

/-- 2.6: a non-canonical sign byte and non-zero padding. -/
theorem test_dec_sign_order_padding :
    (resp (exec (.dec (some [0x02#8, 0x0C#8, 0x0B#8, 0x0A#8, 0x09#8, 0x08#8, 0x07#8, 0x06#8, 0x05#8,
        0x04#8, 0x03#8, 0x02#8, 0x01#8, 0xAA#8, 0xBB#8, 0xCC#8, 0xDD#8])) (regsAt 18 2))).map
        (fun r => r.payload.vout) =
      some ⟨false, 0x090A0B0C#32, 0x05060708#32, 0x01020304#32, 2#8⟩ := by decide

/-- 2.6: lengths 16 and 18, and no buffer. -/
theorem test_dec_lengths :
    status (exec (.dec (some (List.replicate 16 1#8))) (regsAt 18 0)) = some (2, 6) ∧
    status (exec (.dec (some (List.replicate 18 1#8))) (regsAt 18 0)) = some (2, 6) ∧
    status (exec (.dec none) (regsAt 18 0)) = some (2, 5) := by decide

/-- 2.7: the payload is CODEC_ID, whatever it is. -/
theorem test_getid :
    (resp (exec .getid (regsAt 5 2))).map (fun r => r.payload.id) = some Config.codecId := rfl

/-- 2.9: `SETS 4` in flight, reset asserted: no response, registers (18, 0). -/
theorem test_reset_aborts :
    (after (step { flying 5 2 (encode (.sets 4#32)) with inputs := [⟨true, []⟩] })).map
      (fun t => (t.codec, t.inFlight, t.response)) = some (⟨18#6, 0#6⟩, none, none) := by decide

/-- R44: a comment, letter case, and what the assembler refuses. -/
theorem test_assembler_lines :
    assembleLine "cfg 18, -1 ; both".toList = some [.cfg 18#32 0xFFFFFFFF#32] ∧
    assembleLine "DEC [0a FF]".toList = some [.dec (some [0x0A#8, 0xFF#8])] ∧
    assembleLine "ENC +79228162514264337593543950336, 0".toList = none ∧
    assembleLine "ENC 1.".toList = none := by decide

/-! ### Witnesses: the hypotheses of each obligation can be met together -/

theorem witness_ResetLeavesDefaultConfiguration :
    (currentInput { regsAt 5 2 with inputs := [⟨true, []⟩] }).reset = true := rfl

theorem witness_ConfigurationInvariantIsKept :
    (flying 38 38 (encode (.setp 38#32))).codec.Inv ∧
    regs (stepWith (fun _ => 0) (flying 38 38 (encode (.setp 38#32)))) = some (38, 38) ∧
    regs (step (flying 38 38 (encode (.setp 38#32)))) = some (38, 38) := by decide

theorem witness_StepKeepsStateInvariant :
    (flying 1 1 (encode .gets)).Inv ∧ (after (step (flying 1 1 (encode .gets)))).isSome = true := by
  refine ⟨⟨by decide, ?_, by simp [flying, regsAt, State.idle], by simp [flying, regsAt, State.idle],
    by simp [flying, regsAt, State.idle, Config.nHosts], by simp [flying, regsAt, State.idle]⟩, by decide⟩
  intro c hc
  obtain rfl : encode .gets = c := by simpa [flying] using hc
  simp [Command.wf, encode, Command.ofWord, Buffer.wf, Config.nHosts]

theorem witness_DecodeInvertsEncode :
    (Instr.dec (some [0#8])).wf = true ∧ 0 < Config.nHosts ∧
    decode { encodeFrom 0 (.dec (some [0#8])) with arg0 := 7#32 } = .ok (.dec (some [0#8])) :=
  ⟨by decide, by simp [Config.nHosts], rfl⟩

/-- Two commands that differ in ARG1, VIN and BIN only: the listed field of SETS is ARG0. -/
theorem witness_UnlistedOperandsAreIgnored :
    let c : Command := ⟨2#32, 3#32, 4#32, val true 9 1, none, 0⟩
    let d : Command := ⟨2#32, 3#32, 5#32, val false 8 2, some [1#8], 0⟩
    c ≠ d ∧ c.cmd = d.cmd ∧ c.host = d.host ∧
    (c.cmd = 0x00000001#32 ∨ c.cmd = 0x00000002#32 ∨ c.cmd = 0x00000003#32 → c.arg0 = d.arg0) ∧
    (c.cmd = 0x00000003#32 → c.arg1 = d.arg1) ∧ (c.cmd = 0x00000010#32 → c.vin = d.vin) ∧
    (c.cmd = 0x00000011#32 → c.bin = d.bin) := by decide

/-- The OP values next to the map's edges for the first clause, RSV at its least and its highest bit for
the second. -/
theorem witness_IllegalCommandWordsAreAnswered :
    (currentInput (flying 18 0 (Command.ofWord 0x00000006#32))).reset = false ∧
    (∀ w ∈ [0x00000000#32, 0x00000006#32, 0x00000012#32, 0x00000021#32, 0x000000FF#32, 0x00000100#32],
      w.toNat % 256 ∉ [1, 2, 3, 4, 5, 16, 17, 32]) ∧
    (∀ w ∈ [0x00000101#32, 0x80000010#32],
      w.toNat % 256 ∈ [1, 2, 3, 4, 5, 16, 17, 32] ∧ w.toNat / 256 ≠ 0) :=
  ⟨rfl, by simp, by simp⟩

theorem witness_StepRunsDecodedCommand :
    let s := flying 18 0 (encode (.setp 38#32))
    s.inFlight = some (encode (.setp 38#32)) ∧ (currentInput s).reset = false ∧
    decode (encode (.setp 38#32)) = .ok (.setp 38#32) ∧ (Instr.setp 38#32).wf = true ∧
    (flying 18 0 (Command.ofWord 6#32)).inFlight = some (Command.ofWord 6#32) ∧
    (currentInput (flying 18 0 (Command.ofWord 6#32))).reset = false ∧
    decode (Command.ofWord 6#32) = .error .unknownOp :=
  ⟨rfl, rfl, rfl, rfl, rfl, rfl, rfl⟩

/-- 0 and 39; 9 below SCALE 10; 10 at SCALE 10, and 38. -/
theorem witness_SetpResult :
    ((0#32).toInt < 1 ∧ (38 : Int) < (39#32).toInt) ∧
    (1 ≤ (9#32).toInt ∧ (9#32).toInt ≤ 38 ∧ (9#32).toInt < (regsAt 18 10).codec.scale.toNat) ∧
    ((regsAt 18 10).codec.scale.toNat ≤ (10#32).toInt ∧ 1 ≤ (38#32).toInt ∧ (38#32).toInt ≤ 38) := by decide

/-- -1 and PRECISION + 1; 0 and PRECISION. -/
theorem witness_SetsResult :
    ((0xFFFFFFFF#32).toInt < 0 ∧ (regsAt 18 0).codec.precision.toNat < (19#32).toInt) ∧
    (0 ≤ (0#32).toInt ∧ (18#32).toInt ≤ (regsAt 18 0).codec.precision.toNat) := by decide

/-- 0 and 39; precision 5 with scales -1 and 6; precision 5 with scales 0 and 5. -/
theorem witness_CfgResult :
    ((0#32).toInt < 1 ∧ (38 : Int) < (39#32).toInt) ∧
    (1 ≤ (5#32).toInt ∧ (5#32).toInt ≤ 38 ∧ (0xFFFFFFFF#32).toInt < 0 ∧ (5#32).toInt < (6#32).toInt) ∧
    (0 ≤ (0#32).toInt ∧ (0#32).toInt ≤ (5#32).toInt ∧ 0 ≤ (5#32).toInt) := by decide

theorem witness_GetpGetsResult : (regsAt 38 38).codec.Inv ∧ (regsAt 1 0).codec.Inv := by decide

theorem witness_LoweringPrecisionBelowScale :
    (regsAt 18 10).codec.Inv ∧ 1 ≤ (5#32).toInt ∧ (5#32).toInt < (regsAt 18 10).codec.scale.toNat ∧
    0 ≤ (2#32).toInt ∧ (2#32).toInt ≤ (5#32).toInt := by decide

/-- 10^9 - 1 has 9 digits and 10^9 has 10. -/
theorem witness_NdigitsIsDecimalLength :
    ndigits 999999999#96 = 9 ∧ ndigits 1000000000#96 = 10 ∧ 1 ≤ (999999999#96).toNat := by decide

/-- 0.001 has natural precision 3, by its own scale; 1.50 has 3, by its digits. -/
theorem witness_NaturalPrecisionTest :
    natPrec (val false 1 3) = 3 ∧ natPrec (val false 150 2) = 3 := by decide

/-- PRECISION 9 with 10^9 - 1 and with 10^9 in the form of the obligation: 9 and 10 digits. -/
theorem witness_EncResult :
    max (Nat.log 10 999999999 + 1) 0 ≤ (regsAt 9 0).codec.precision.toNat ∧
    (regsAt 9 0).codec.precision.toNat < max (Nat.log 10 1000000000 + 1) 0 ∧
    (val false 999999999 0).lo.toNat = 999999999 := by
  refine ⟨?_, ?_, by decide⟩
  · have h : Nat.log 10 999999999 < 9 := Nat.log_lt_of_lt_pow (by decide) (by decide)
    have e : (regsAt 9 0).codec.precision.toNat = 9 := by decide
    omega
  · have h : 9 ≤ Nat.log 10 1000000000 := Nat.le_log_of_pow_le (by decide) (by decide)
    have e : (regsAt 9 0).codec.precision.toNat = 9 := by decide
    omega

theorem witness_EncReadsOnlyPrecision :
    (regsAt 18 0).codec.precision = (regsAt 18 5).codec.precision ∧ regsAt 18 0 ≠ regsAt 18 5 := by decide

theorem witness_WidePrecisionAcceptsEveryMagnitude :
    29 ≤ (regsAt 29 0).codec.precision.toNat ∧
    (val true (2 ^ 96 - 1) 29).vscale.toNat ≤ (regsAt 29 0).codec.precision.toNat := by decide

theorem witness_BusCarriesTheRecord : (packRecord (val true 1 0)).length = 17 := rfl

theorem witness_DecResult :
    (List.replicate 16 1#8).length ≠ 17 ∧ (List.replicate 18 1#8).length ≠ 17 := by decide

theorem witness_DecReadsOnlyScaleAndThirteenBytes :
    let bs := List.replicate 17 0#8
    let cs := List.replicate 13 0#8 ++ [1#8, 2#8, 3#8, 4#8]
    (regsAt 18 2).codec.scale = (regsAt 5 2).codec.scale ∧ bs.length = 17 ∧ cs.length = 17 ∧
    bs.take 13 = cs.take 13 ∧ bs ≠ cs := by decide

theorem witness_EncodeDecodeRoundTrip :
    ∃ t d, exec (.enc (val true 12345 2)) (regsAt 18 2) = .next t ∧ t.response = some d ∧
      d.response.kind = .ok ∧ (regsAt 18 2).codec = (regsAt 18 2).codec := ⟨_, _, rfl, rfl, rfl, rfl⟩

/-- The value has scale 2; the decoding instance has SCALE 0. -/
theorem witness_DecodeRescalesTheNumber :
    ∃ t d, exec (.enc (val false 123 2)) (regsAt 18 2) = .next t ∧ t.response = some d ∧
      d.response.kind = .ok ∧
      (val false 123 2).vscale.toNat ≠ (regsAt 18 0).codec.scale.toNat :=
  ⟨_, _, rfl, rfl, rfl, by decide⟩

theorem witness_CausesOfEachInstruction :
    ∃ t d, exec (.dec none) (regsAt 18 2) = .next t ∧ t.response = some d ∧
      d.response.cause = .bufAbsent := ⟨_, _, rfl, rfl, rfl⟩

theorem witness_FailedCommandFailsAgain :
    ∃ t d, exec (.dec none) (regsAt 18 2) = .next t ∧ t.response = some d ∧ d.response.kind ≠ .ok :=
  ⟨_, _, rfl, rfl, by decide⟩

theorem witness_ResetAbortsTheCommandInFlight :
    (flying 5 2 (encode .getp)).inFlight = some (encode .getp) ∧
    (currentInput { flying 5 2 (encode .getp) with inputs := [⟨true, []⟩] }).reset = true := ⟨rfl, rfl⟩

/-- One command waits since before reset and another is offered during it. -/
theorem witness_OfferedCommandsWaitThroughReset :
    let s : State := { regsAt 5 2 with
      waiting := [encode .getp], inputs := [⟨true, [encode .gets]⟩] }
    (currentInput s).reset = true ∧ s.waiting ++ (currentInput s).offers = [encode .getp, encode .gets] :=
  ⟨rfl, rfl⟩

theorem witness_AcceptedCommandsComplete :
    (currentInput (flying 5 2 (encode .getp))).reset = false ∧
    (flying 5 2 (encode .getp)).inFlight = some (encode .getp) := ⟨rfl, rfl⟩

theorem witness_CompletionDependsOnlyOnCommandAndRegisters :
    (currentInput (flying 5 2 (encode (.cfg 1#32 1#32)))).reset = false ∧
    (flying 5 2 (encode (.cfg 1#32 1#32))).inFlight = some (encode (.cfg 1#32 1#32)) := ⟨rfl, rfl⟩

theorem witness_AcceptanceTakesAHostsOldestCommand :
    (currentInput (regsAt 5 2)).reset = false ∧ (regsAt 5 2).inFlight = none ∧
    (regsAt 5 2).waiting ++ (currentInput (regsAt 5 2)).offers = [] ∧
    ({ regsAt 5 2 with waiting := [encode .getp] }).waiting ≠ [] := by decide

theorem witness_SequentialConsistency :
    NoReset { regsAt 5 2 with inputs := [⟨false, [encode .getp]⟩] } ∧
    (runWith (fun _ => 0) 3 { regsAt 5 2 with inputs := [⟨false, [encode .getp]⟩] }).completed =
      [encode .getp] := by
  constructor
  · simp [NoReset]
  · decide

theorem witness_EveryOfferedCommandIsAnswered :
    let s : State := { regsAt 5 2 with inputs := [⟨false, [encode .getp]⟩] }
    NoReset s ∧ s.inputs.length + 2 * (outstanding s).length ≤ 3 := by
  constructor
  · simp [NoReset]
  · decide

/-- P5: host 0's `SETS 2` and host 1's DEC. -/
theorem witness_UnorderedCommandsHaveBothOutcomes :
    let a := encodeFrom 0 (.sets 2#32)
    let b := encodeFrom 1 (.dec (some (packRecord (val false 12345 0))))
    let s : State := { State.reset with waiting := [a, b] }
    s.inFlight = none ∧ s.waiting = [a, b] ∧ s.inputs = [] ∧ a.host ≠ b.host ∧
    serveAll s.codec [a, b] ≠ serveAll s.codec [b, a] := by decide

/-- Instance 1, idle, under an arbiter other than that of instance 0. -/
theorem witness_InstancesShareNoState :
    let arbs : Nat → Nat → Nat := fun k _ => k
    ∃ t, (Platform.mk [regsAt 5 2, regsAt 18 0]).instances[1]? = some (regsAt 18 0) ∧
      stepWith (arbs 1) (regsAt 18 0) = .next t ∧ (0 : Nat) ≠ 1 := by
  refine ⟨{ regsAt 18 0 with response := none }, rfl, ?_, by decide⟩
  simp [stepWith, regsAt, State.idle, State.reset, currentInput, Input.quiet, accept, arbitrate, sample]

theorem witness_AssembledValueIsTheOneWritten :
    (2 ^ 96 - 1 : Nat) < 2 ^ 96 ∧ (255 : Nat) ≤ 255 ∧
    assembleLine "ENC -79228162514264337593543950335, 255".toList =
      some [.enc (val true (2 ^ 96 - 1) 255)] := by decide

theorem witness_AssembledIntegerIsTwosComplement :
    assembleLine "SETP -2147483648".toList = some [.setp 0x80000000#32] ∧
    assembleLine "SETP 2147483647".toList = some [.setp 0x7FFFFFFF#32] ∧
    assembleLine "SETP 2147483648".toList = none ∧
    assembleLine "SETP -2147483649".toList = none := by decide

end Sys2Proof.Tests
end

section
/-! The equations of a step, one for each of its cases, and acceptance (spec/20_memory.md R30). -/

namespace Sys2Proof.Machine

variable {arb : Nat → Nat} {s : State}

/-- Under reset a step resets the codec. -/
theorem stepWith_of_reset (h : (currentInput s).reset = true) :
    stepWith arb s = .next (assertReset (sample s)) := by
  simp [stepWith, h]

/-- With reset released the command in flight executes. -/
theorem stepWith_of_inFlight {c : Command} (h : (currentInput s).reset = false)
    (hc : s.inFlight = some c) : stepWith arb s = execute c (sample s) := by
  simp [stepWith, h, hc]

/-- With reset released and nothing in flight, the step is an acceptance. -/
theorem stepWith_of_not_inFlight (h : (currentInput s).reset = false) (hf : s.inFlight = none) :
    stepWith arb s = .next (accept arb (sample s)) := by
  simp [stepWith, h, hf]

/-- Settles O37: such a step is an acceptance, and `accept_cases` says what that can do on the state whose
input sample has been taken. -/
theorem acceptanceTakesAHostsOldestCommand : Obligations.AcceptanceTakesAHostsOldestCommand := by
  intro arb s ws hreset hflight hws
  have hwait : (sample s).waiting = ws := by rw [sample_waiting, hws]
  rw [stepWith_of_not_inFlight hreset hflight]
  rcases accept_cases arb (sample s) with ⟨hnil, hacc⟩ | ⟨pre, c, post, hsplit, hpre, hacc⟩
  case inl =>
    have hws_nil : ws = [] := hwait ▸ hnil
    refine ⟨fun _ => ?_, fun hne => absurd hws_nil hne⟩
    rw [hacc, ← hnil]
    rfl
  case inr =>
    have hws_split : ws = pre ++ c :: post := hwait ▸ hsplit
    refine ⟨fun hnil => ?_, fun _ => ⟨pre, post, c, hws_split, hpre, ?_⟩⟩
    · simp [hws_split] at hnil
    · rw [hacc]
      rfl

end Sys2Proof.Machine
end

section
/-! Digit counts are bounded by the width of the magnitude, so a wide PRECISION accepts every magnitude
(spec/41_encode.md R54, R57). -/

namespace Sys2Proof.Machine

/-- Each unit of fuel adds at most one digit. -/
theorem digitCount_le (fuel m : Nat) : digitCount fuel m ≤ fuel + 1 := by
  induction fuel generalizing m with
  | zero => simp [digitCount]
  | succ fuel ih =>
    have hrest := ih (m / 10)
    simp only [digitCount]
    split <;> omega

/-- A 96-bit magnitude has at most 29 digits (R54). -/
theorem ndigits_le (m : Magnitude) : ndigits m ≤ 29 := digitCount_le 28 m.toNat

/-- The value's own scale counts (R55). -/
theorem natPrec_eq (v : Value) : natPrec v = max (ndigits (magnitude v)) v.vscale.toNat := rfl

/-- ENC of a value that fits PRECISION answers with its record (R57). -/
theorem exec_enc_of_natPrec_le {v : Value} {s : State} (h : natPrec v ≤ s.codec.precision.toNat) :
    exec (.enc v) s = answer (recordPayload (packRecord v)) s := by
  simp [exec, execEnc, Nat.not_lt.mpr h]

/-- ENC of a value that does not fit PRECISION is refused with VALUE_PREC (R57). -/
theorem exec_enc_of_lt_natPrec {v : Value} {s : State} (h : s.codec.precision.toNat < natPrec v) :
    exec (.enc v) s = raise .valuePrec s := by
  simp [exec, execEnc, h]

/-- Settles O21: the digits of any magnitude fit 29, so only the value's own scale can exceed PRECISION. -/
theorem widePrecisionAcceptsEveryMagnitude : Obligations.WidePrecisionAcceptsEveryMagnitude := by
  intro v s hwide hscale
  have hdigits : ndigits (magnitude v) ≤ s.codec.precision.toNat := (ndigits_le _).trans hwide
  have hfits : natPrec v ≤ s.codec.precision.toNat := by
    rw [natPrec_eq]
    exact max_le hdigits hscale
  exact ⟨_, _, exec_enc_of_natPrec_le hfits, rfl, rfl⟩

end Sys2Proof.Machine
end

section
/-! A step of one instance of a platform (spec/10_state.md R19). -/

namespace Sys2Proof.Machine

variable {arbs : Nat → Nat → Nat} {k : Nat} {p : Platform}

/-- A step of an instance with a next state puts that state in the instance's place. -/
theorem stepInstance_of_next {s t : State} (hs : p.instances[k]? = some s)
    (ht : stepWith (arbs k) s = .next t) : p.stepInstance arbs k = ⟨p.instances.set k t⟩ := by
  simp [Platform.stepInstance, hs, ht]

/-- Stepping an instance changes nothing, or replaces that instance alone. -/
theorem stepInstance_cases (arbs : Nat → Nat → Nat) (k : Nat) (p : Platform) :
    p.stepInstance arbs k = p ∨ ∃ t, p.stepInstance arbs k = ⟨p.instances.set k t⟩ := by
  unfold Platform.stepInstance
  split
  case h_1 => exact .inl rfl
  case h_2 s _ =>
    split
    case h_1 t _ => exact .inr ⟨t, rfl⟩
    case h_2 => exact .inl rfl
    case h_3 => exact .inl rfl

/-- Settles O44: the step replaces at most the entry of instance `k`. -/
theorem instancesShareNoState : Obligations.InstancesShareNoState := by
  intro arbs p k
  constructor
  · intro j hj
    rcases stepInstance_cases arbs k p with hsame | ⟨t, hset⟩
    · rw [hsame]
    · rw [hset]
      exact List.getElem?_set_ne hj.symm
  · intro s t hs ht
    obtain ⟨hk, _⟩ := List.getElem?_eq_some_iff.mp hs
    rw [stepInstance_of_next hs ht]
    exact List.getElem?_set_self hk

end Sys2Proof.Machine
end

section
/-! What the range checks let through (spec/40_config.md R47 to R49): a register takes an operand's value
exactly, and the new pair satisfies INV (spec/10_state.md R14). -/

namespace Sys2Proof.Machine

/-- An integer below 64 is its own low six bits. -/
theorem lowSix_toNat {v : Int} (hlow : 0 ≤ v) (hhigh : v < 64) : ((lowSix v).toNat : Int) = v := by
  simp only [lowSix, BitVec.toNat_ofInt]
  omega

/-- The precisions accepted are 1 to 38. -/
theorem precOutOfRange_eq_false_iff (p : Int) : precOutOfRange p = false ↔ 1 ≤ p ∧ p ≤ 38 := by
  change (decide (p < 1) || decide (38 < p)) = false ↔ _
  simp

/-- The scales accepted are 0 to the bound. -/
theorem scaleOutOfRange_eq_false_iff (sc bound : Int) :
    scaleOutOfRange sc bound = false ↔ 0 ≤ sc ∧ sc ≤ bound := by
  change (decide (sc < 0) || decide (bound < sc)) = false ↔ _
  simp

/-- The reset pair (18, 0) satisfies INV. -/
theorem Codec.reset_inv : Codec.reset.Inv := by decide

/-- A precision in range, not below SCALE, may be written (R47). -/
theorem Codec.inv_setPrecision {k : Codec} {p : Int} (hp : precOutOfRange p = false)
    (hscale : k.scale.toNat ≤ p) : Codec.Inv { k with precision := lowSix p } := by
  obtain ⟨hmin, hmax⟩ := (precOutOfRange_eq_false_iff p).mp hp
  have hval : ((lowSix p).toNat : Int) = p := lowSix_toNat (by omega) (by omega)
  refine ⟨?_, ?_, ?_⟩ <;> dsimp only <;> omega

/-- A scale up to PRECISION may be written (R48). -/
theorem Codec.inv_setScale {k : Codec} {sc : Int} (hk : k.Inv)
    (hsc : scaleOutOfRange sc k.precision.toNat = false) : Codec.Inv { k with scale := lowSix sc } := by
  obtain ⟨hprec_min, hprec_max, _⟩ := hk
  obtain ⟨hmin, hmax⟩ := (scaleOutOfRange_eq_false_iff sc _).mp hsc
  have hval : ((lowSix sc).toNat : Int) = sc := lowSix_toNat hmin (by omega)
  exact ⟨hprec_min, hprec_max, by dsimp only; omega⟩

/-- A precision in range and a scale up to it may be written together, whatever the registers held (R49). -/
theorem Codec.inv_setBoth {p sc : Int} (hp : precOutOfRange p = false)
    (hsc : scaleOutOfRange sc p = false) : Codec.Inv ⟨lowSix p, lowSix sc⟩ := by
  obtain ⟨hprec_min, hprec_max⟩ := (precOutOfRange_eq_false_iff p).mp hp
  obtain ⟨hmin, hmax⟩ := (scaleOutOfRange_eq_false_iff sc p).mp hsc
  have hprec : ((lowSix p).toNat : Int) = p := lowSix_toNat (by omega) (by omega)
  have hscale : ((lowSix sc).toNat : Int) = sc := lowSix_toNat hmin (by omega)
  refine ⟨?_, ?_, ?_⟩ <;> dsimp only <;> omega

end Sys2Proof.Machine
end

section
/-! The one thing every command does: from the registers alone it determines new registers and a response,
commits the one and sends the other, and touches nothing else (spec/10_state.md R18, spec/60_exceptions.md
R66 to R69). -/

namespace Sys2Proof.Machine

variable {f : State → Host.Outcome State Fault Refusal} {k k' : Codec} {r : Response}

/-- From every state whose registers are `k`, the operation `f` writes the registers `k'` and sends the
response `r`; `k'` keeps INV and `r` has the form of a response. -/
structure Completes (f : State → Host.Outcome State Fault Refusal) (k k' : Codec) (r : Response) : Prop where
  next : ∀ s : State, s.codec = k → f s = .next (respond r { s with codec := k' })
  inv : k.Inv → k'.Inv
  wf : WfResponse r

/-- An error response has the form of a response. -/
theorem errorResponse_wf (cause : Cause) : WfResponse (errorResponse cause) :=
  ⟨rfl, List.length_replicate, fun _ => rfl⟩

/-- A success has the form of a response where its W has 17 bytes. -/
theorem okResponse_wf {p : Payload} (hw : p.w.length = 17) : WfResponse (okResponse p) :=
  ⟨rfl, hw, fun hne => absurd rfl hne⟩

/-- A branch that raises an error completes with the registers as they were. -/
theorem Completes.of_raise {cause : Cause} (h : ∀ s : State, s.codec = k → f s = raise cause s) :
    Completes f k k (errorResponse cause) where
  next := by
    rintro s rfl
    exact h s rfl
  inv := id
  wf := errorResponse_wf cause

/-- A branch that commits completes with the registers it writes. -/
theorem Completes.of_commit {p : Payload} (h : ∀ s : State, s.codec = k → f s = commit k' p s)
    (hinv : k.Inv → k'.Inv) (hw : p.w.length = 17) : Completes f k k' (okResponse p) where
  next := h
  inv := hinv
  wf := okResponse_wf hw

/-- A branch that answers completes with the registers as they were. -/
theorem Completes.of_answer {p : Payload} (h : ∀ s : State, s.codec = k → f s = answer p s)
    (hw : p.w.length = 17) : Completes f k k (okResponse p) :=
  .of_commit (fun s hs => by rw [h s hs, answer, hs]) id hw

/-- SETP: two errors, or a write of PRECISION (R47). -/
theorem execSetp_completes (arg0 : Word) (k : Codec) : ∃ k' r, Completes (execSetp arg0) k k' r := by
  cases hp : precOutOfRange (sint arg0)
  case true => exact ⟨_, _, .of_raise (cause := .precRange) fun s _ => by simp [execSetp, hp]⟩
  case false =>
    by_cases hbelow : sint arg0 < k.scale.toNat
    · exact ⟨_, _, .of_raise (cause := .precBelowScale) fun s hs => by
        simp [execSetp, hp, hs, hbelow]⟩
    · exact ⟨_, _, .of_commit (k' := { k with precision := lowSix (sint arg0) }) (p := plainPayload)
        (fun s hs => by simp [execSetp, hp, hs, hbelow])
        (fun _ => Codec.inv_setPrecision hp (not_lt.mp hbelow)) List.length_replicate⟩

/-- SETS: an error, or a write of SCALE (R48). -/
theorem execSets_completes (arg0 : Word) (k : Codec) : ∃ k' r, Completes (execSets arg0) k k' r := by
  cases hsc : scaleOutOfRange (sint arg0) k.precision.toNat
  case true => exact ⟨_, _, .of_raise (cause := .scaleRange) fun s hs => by simp [execSets, hs, hsc]⟩
  case false =>
    exact ⟨_, _, .of_commit (k' := { k with scale := lowSix (sint arg0) }) (p := plainPayload)
      (fun s hs => by simp [execSets, hs, hsc])
      (fun hk => Codec.inv_setScale hk hsc) List.length_replicate⟩

/-- CFG: two errors, or a write of both registers (R49). -/
theorem execCfg_completes (arg0 arg1 : Word) (k : Codec) :
    ∃ k' r, Completes (execCfg arg0 arg1) k k' r := by
  cases hp : precOutOfRange (sint arg0)
  case true => exact ⟨_, _, .of_raise (cause := .precRange) fun s _ => by simp [execCfg, hp]⟩
  case false =>
    cases hsc : scaleOutOfRange (sint arg1) (sint arg0)
    case true =>
      exact ⟨_, _, .of_raise (cause := .scaleRange) fun s _ => by simp [execCfg, hp, hsc]⟩
    case false =>
      exact ⟨_, _, .of_commit (k' := ⟨lowSix (sint arg0), lowSix (sint arg1)⟩) (p := plainPayload)
        (fun s _ => by simp [execCfg, hp, hsc])
        (fun _ => Codec.inv_setBoth hp hsc) List.length_replicate⟩

/-- ENC: an error, or an answer with a record of 17 bytes (R57). -/
theorem execEnc_completes (vin : Value) (k : Codec) : ∃ k' r, Completes (execEnc vin) k k' r := by
  by_cases hprec : k.precision.toNat < natPrec vin
  · exact ⟨_, _, .of_raise (cause := .valuePrec) fun s hs => by simp [execEnc, hs, hprec]⟩
  · exact ⟨_, _, .of_answer (p := recordPayload (packRecord vin))
      (fun s hs => by simp [execEnc, hs, hprec]) rfl⟩

/-- DEC: two errors, or an answer with a value labelled with SCALE (R59). -/
theorem execDec_completes (bin : Buffer) (k : Codec) : ∃ k' r, Completes (execDec bin) k k' r := by
  cases bin with
  | none => exact ⟨_, _, .of_raise (cause := .bufAbsent) fun s _ => rfl⟩
  | some bs =>
    by_cases hlen : bs.length = Config.recLen
    · exact ⟨_, _, .of_answer (p := valuePayload (unpackRecord bs k.scale))
        (fun s hs => by simp [execDec, hlen, hs]) List.length_replicate⟩
    · exact ⟨_, _, .of_raise (cause := .bufLen) fun s _ => by simp [execDec, hlen]⟩

/-- Every instruction completes. -/
theorem exec_completes (i : Instr) (k : Codec) : ∃ k' r, Completes (exec i) k k' r := by
  cases i with
  | setp arg0 => exact execSetp_completes arg0 k
  | sets arg0 => exact execSets_completes arg0 k
  | cfg arg0 arg1 => exact execCfg_completes arg0 arg1 k
  | getp =>
    exact ⟨_, _, .of_answer (p := doutPayload (zext32 k.precision))
      (fun s hs => hs ▸ rfl) List.length_replicate⟩
  | gets =>
    exact ⟨_, _, .of_answer (p := doutPayload (zext32 k.scale))
      (fun s hs => hs ▸ rfl) List.length_replicate⟩
  | enc vin => exact execEnc_completes vin k
  | dec bin => exact execDec_completes bin k
  | getid => exact ⟨_, _, .of_answer (fun s _ => rfl) List.length_replicate⟩

/-- Every command completes, legal or not, once it has started. -/
theorem execute_completes (c : Command) (k : Codec) :
    ∃ f k' r, Completes f k k' r ∧ ∀ s, execute c s = f (start c s) := by
  cases hdec : decode c with
  | ok i =>
    obtain ⟨k', r, hcompletes⟩ := exec_completes i k
    exact ⟨exec i, k', r, hcompletes, fun s => by simp only [execute, hdec]⟩
  | error cause =>
    exact ⟨raise cause, k, errorResponse cause, .of_raise fun s _ => rfl,
      fun s => by simp only [execute, hdec]⟩

/-- Executing a command: the registers and the response are fixed by the command and the registers before
it; the response goes to the command's host. -/
theorem execute_next (c : Command) (k : Codec) :
    ∃ k' r, (k.Inv → k'.Inv) ∧ WfResponse r ∧
      ∀ s : State, s.codec = k → execute c s = .next (respond r { start c s with codec := k' }) := by
  obtain ⟨f, k', r, hcompletes, hexecute⟩ := execute_completes c k
  exact ⟨k', r, hcompletes.inv, hcompletes.wf, fun s hs => by
    rw [hexecute, hcompletes.next (start c s) hs]⟩

end Sys2Proof.Machine
end

section
/-! The invariants that every step keeps (spec/10_state.md R14 and the forms of the ports). -/

namespace Sys2Proof.Machine

variable {arb : Nat → Nat} {s t : State} {c : Command}

/-- What a step is: a reset, the execution of the command in flight, or an acceptance. -/
theorem stepWith_cases (arb : Nat → Nat) (s : State) :
    stepWith arb s = .next (assertReset (sample s)) ∨
    (∃ c, s.inFlight = some c ∧ stepWith arb s = execute c (sample s)) ∨
    stepWith arb s = .next (accept arb (sample s)) := by
  cases hreset : (currentInput s).reset
  case true => exact .inl (stepWith_of_reset hreset)
  case false =>
    cases hflight : s.inFlight with
    | none => exact .inr (.inr (stepWith_of_not_inFlight hreset hflight))
    | some c => exact .inr (.inl ⟨c, rfl, stepWith_of_inFlight hreset hflight⟩)

/-! ### INV -/

/-- Acceptance reads and writes no register. -/
@[simp] theorem accept_codec (arb : Nat → Nat) (s : State) : (accept arb s).codec = s.codec := by
  rcases accept_cases arb s with ⟨_, hacc⟩ | ⟨_, _, _, _, _, hacc⟩ <;> rw [hacc]

/-- Executing a command keeps INV. -/
theorem execute_keeps_codecInv (hinv : s.codec.Inv) (h : execute c s = .next t) : t.codec.Inv := by
  obtain ⟨k', r, hkeeps, _, hnext⟩ := execute_next c s.codec
  obtain rfl := Host.Outcome.next.inj ((hnext s rfl).symm.trans h)
  exact hkeeps hinv

/-- Every step keeps INV, under every arbiter. -/
theorem stepWith_keeps_codecInv (hinv : s.codec.Inv) (h : stepWith arb s = .next t) : t.codec.Inv := by
  rcases stepWith_cases arb s with hreset | ⟨c, _, hexec⟩ | haccept
  · obtain rfl := Host.Outcome.next.inj (hreset.symm.trans h)
    exact Codec.reset_inv
  · exact execute_keeps_codecInv (s := sample s) hinv (hexec ▸ h)
  · obtain rfl := Host.Outcome.next.inj (haccept.symm.trans h)
    rwa [accept_codec]

/-- Settles O3: reset leaves (18, 0), and a step resets the registers, leaves them, or executes a command,
whose writes have passed the range checks. -/
theorem configurationInvariantIsKept : Obligations.ConfigurationInvariantIsKept :=
  ⟨Codec.reset_inv, fun _ _ _ => stepWith_keeps_codecInv, fun _ _ => stepWith_keeps_codecInv⟩

/-! ### The whole invariant -/

/-- Settles O2: the reset pair satisfies INV, the ports are empty, and host 0 exists. -/
theorem resetSatisfiesStateInvariant : Obligations.ResetSatisfiesStateInvariant :=
  ⟨Codec.reset_inv, by simp, by simp, by simp, Nat.succ_pos _, by simp⟩

/-- The current input offers only commands that the list of inputs holds, so well-formed ones. -/
theorem currentInput_offers_wf (h : ∀ x ∈ s.inputs, ∀ c ∈ x.offers, c.wf = true) :
    ∀ c ∈ (currentInput s).offers, c.wf = true := by
  cases hinputs : s.inputs with
  | nil => simp [currentInput_of_nil hinputs, Input.quiet]
  | cons x xs =>
    rw [currentInput_of_cons hinputs]
    exact h x (by simp [hinputs])

/-- Taking the input sample moves well-formed commands from the inputs to those that wait. -/
theorem sample_keeps_inv (h : s.Inv) : (sample s).Inv := by
  obtain ⟨hcodec, hflight, hwaiting, hinputs, hissuer, hresponse⟩ := h
  refine ⟨hcodec, hflight, fun c hc => ?_, fun x hx => ?_, hissuer, hresponse⟩
  · rw [sample_waiting] at hc
    rcases List.mem_append.mp hc with hold | hnew
    · exact hwaiting c hold
    · exact currentInput_offers_wf hinputs c hnew
  · exact hinputs x (List.mem_of_mem_tail hx)

/-- Reset leaves the registers at a legal pair and the ports it empties without content. -/
theorem assertReset_keeps_inv (h : s.Inv) : (assertReset s).Inv := by
  obtain ⟨_, _, hwaiting, hinputs, hissuer, _⟩ := h
  exact ⟨Codec.reset_inv, by simp, hwaiting, hinputs, hissuer, by simp⟩

/-- Acceptance moves a waiting command into flight. -/
theorem accept_keeps_inv (arb : Nat → Nat) (h : s.Inv) : (accept arb s).Inv := by
  obtain ⟨hcodec, hflight, hwaiting, hinputs, hissuer, _⟩ := h
  rcases accept_cases arb s with ⟨_, hacc⟩ | ⟨pre, c, post, hsplit, _, hacc⟩
  · rw [hacc]
    exact ⟨hcodec, hflight, hwaiting, hinputs, hissuer, by simp⟩
  · have hall : ∀ x ∈ pre ++ c :: post, x.wf = true := hsplit ▸ hwaiting
    rw [hacc]
    refine ⟨hcodec, fun x hx => ?_, fun x hx => ?_, hinputs, hissuer, by simp⟩
    · obtain rfl : c = x := by simpa using hx
      exact hall c (by simp)
    · exact hall x (((List.sublist_cons_self c post).append_left pre).mem hx)

/-- Executing a well-formed command keeps INV and sends a response of the right form to a host agent. -/
theorem execute_keeps_inv (h : s.Inv) (hc : c.wf = true) (hnext : execute c s = .next t) : t.Inv := by
  obtain ⟨hcodec, _, hwaiting, hinputs, _, _⟩ := h
  have hhost : c.host < Config.nHosts := by simpa using (Bool.and_eq_true_iff.mp hc).2
  obtain ⟨k', r, hkeeps, hwf, hexec⟩ := execute_next c s.codec
  obtain rfl := Host.Outcome.next.inj ((hexec s rfl).symm.trans hnext)
  refine ⟨hkeeps hcodec, by simp, hwaiting, hinputs, hhost, fun d hd => ?_⟩
  obtain rfl : (⟨c.host, r⟩ : Delivery) = d := by simpa using hd
  exact ⟨hhost, hwf⟩

/-- Every step keeps the whole invariant, under every arbiter. -/
theorem stepWith_keeps_inv (hinv : s.Inv) (h : stepWith arb s = .next t) : t.Inv := by
  have hsample : (sample s).Inv := sample_keeps_inv hinv
  rcases stepWith_cases arb s with hreset | ⟨c, hflight, hexec⟩ | haccept
  · obtain rfl := Host.Outcome.next.inj (hreset.symm.trans h)
    exact assertReset_keeps_inv hsample
  · obtain ⟨_, hflight_wf, _⟩ := hinv
    exact execute_keeps_inv hsample (hflight_wf c hflight) (hexec ▸ h)
  · obtain rfl := Host.Outcome.next.inj (haccept.symm.trans h)
    exact accept_keeps_inv arb hsample

/-- Settles O4: taking the sample, resetting, executing and accepting each keep the invariant. -/
theorem stepKeepsStateInvariant : Obligations.StepKeepsStateInvariant :=
  fun _ _ => stepWith_keeps_inv

end Sys2Proof.Machine
end

section
/-! What a step does not read: the ports other than the command in flight (spec/10_state.md R17, R18). -/

namespace Sys2Proof.Machine

variable {arb : Nat → Nat} {s : State}

/-- Settles O39: the same registers and response come of executing the command on the sampled state and on
the idle instance, since both hold the same registers. -/
theorem completionDependsOnlyOnCommandAndRegisters :
    Obligations.CompletionDependsOnlyOnCommandAndRegisters := by
  intro arb s c hflight hreset
  obtain ⟨k', r, _, _, hexec⟩ := execute_next c s.codec
  have hserve : serve s.codec c = (k', some ⟨c.host, r⟩) := by
    rw [serve, hexec (State.idle s.codec) rfl]
    rfl
  exact ⟨_, (stepWith_of_inFlight hreset hflight).trans (hexec (sample s) rfl), hserve.symm⟩

/-- Execution overwrites the response port without reading it. -/
theorem execute_ignores_response (c : Command) (s : State) (r : Option Delivery) :
    execute c { s with response := r } = execute c s := by
  obtain ⟨k', r', _, _, hexec⟩ := execute_next c s.codec
  rw [hexec s rfl, hexec { s with response := r } rfl]
  rfl

/-- Acceptance empties the response port without reading it. -/
theorem accept_ignores_response (arb : Nat → Nat) (s : State) (r : Option Delivery) :
    accept arb { s with response := r } = accept arb s := by
  cases harb : arbitrate (arb s.tick) s.waiting <;> simp only [accept, harb]

/-- Settles O38: reset and acceptance empty the port and execution overwrites it. -/
theorem responseIsNeverRead : Obligations.ResponseIsNeverRead := by
  intro arb s r
  cases hreset : (currentInput s).reset
  case true =>
    calc stepWith arb { s with response := r }
      _ = .next (assertReset (sample { s with response := r })) := stepWith_of_reset hreset
      _ = .next (assertReset (sample s)) := rfl
      _ = stepWith arb s := (stepWith_of_reset hreset).symm
  case false =>
    rcases Option.eq_none_or_eq_some s.inFlight with hflight | ⟨c, hflight⟩
    case inl =>
      calc stepWith arb { s with response := r }
        _ = .next (accept arb (sample { s with response := r })) :=
          stepWith_of_not_inFlight hreset hflight
        _ = .next (accept arb (sample s)) :=
          congrArg _ (accept_ignores_response arb (sample s) r)
        _ = stepWith arb s := (stepWith_of_not_inFlight hreset hflight).symm
    case inr =>
      calc stepWith arb { s with response := r }
        _ = execute c (sample { s with response := r }) := stepWith_of_inFlight hreset hflight
        _ = execute c (sample s) := execute_ignores_response c (sample s) r
        _ = stepWith arb s := (stepWith_of_inFlight hreset hflight).symm

end Sys2Proof.Machine
end

section
/-! Execution runs the decoded command (spec/30_encoding.md R33, spec/70_reset_and_hazards.md R81). -/

namespace Sys2Proof.Machine

variable {s : State}

/-- A command that decodes runs its instruction once it has started. -/
theorem execute_of_decode_ok {c : Command} {i : Instr} (h : decode c = .ok i) :
    execute c s = exec i (start c s) := by
  simp only [execute, h]

/-- A command that does not decode raises its cause once it has started. -/
theorem execute_of_decode_error {c : Command} {cause : Cause} (h : decode c = .error cause) :
    execute c s = raise cause (start c s) := by
  simp only [execute, h]

/-- Settles O10: the step is the execution of the command in flight on the sampled state, which decodes it. -/
theorem stepRunsDecodedCommand : Obligations.StepRunsDecodedCommand := by
  intro s c hflight hreset
  have hstep : step s = execute c (sample s) := stepWith_of_inFlight hreset hflight
  constructor
  · intro i hdec _
    rw [hstep, execute_of_decode_ok hdec]
    rfl
  · intro cause hdec
    rw [hstep, execute_of_decode_error hdec]
    rfl

end Sys2Proof.Machine
end

section
/-! Order (spec/20_memory.md R30, spec/70_reset_and_hazards.md R85): without reset a step serves what it completes
and keeps every host's commands in the order the host issued them; by induction so does a run. -/

namespace Sys2Proof.Machine

variable {arb : Nat → Nat} {s t : State}

/-! ### Commands in sequence -/

/-- Executing a command in any state gives the registers and the response that `serve` gives. -/
theorem execute_eq_serve (c : Command) (s : State) :
    ∃ k r, serve s.codec c = (k, some ⟨c.host, r⟩) ∧
      execute c s = .next (respond r { start c s with codec := k }) := by
  obtain ⟨k, r, _, _, hexec⟩ := execute_next c s.codec
  refine ⟨k, r, ?_, hexec s rfl⟩
  rw [serve, hexec (State.idle s.codec) rfl]
  rfl

/-- A command alone in sequence. -/
theorem serveAll_singleton (k : Codec) (c : Command) :
    serveAll k [c] = ((serve k c).1, (serve k c).2.toList) := by
  simp [serveAll]

/-- Commands in sequence are served in two parts, the second from the registers that the first left. -/
theorem serveAll_append (k : Codec) (cs ds : List Command) :
    serveAll k (cs ++ ds) =
      ((serveAll (serveAll k cs).1 ds).1, (serveAll k cs).2 ++ (serveAll (serveAll k cs).1 ds).2) := by
  induction cs generalizing k with
  | nil => rfl
  | cons c cs ih => simp only [List.cons_append, serveAll, ih, List.append_assoc]

/-! ### What stays outstanding -/

/-- Acceptance takes no input. -/
@[simp] theorem accept_inputs (arb : Nat → Nat) (s : State) : (accept arb s).inputs = s.inputs := by
  rcases accept_cases arb s with ⟨_, hacc⟩ | ⟨_, _, _, _, _, hacc⟩ <;> rw [hacc]

/-- No response leaves at acceptance. -/
@[simp] theorem accept_response (arb : Nat → Nat) (s : State) : (accept arb s).response = none := by
  rcases accept_cases arb s with ⟨_, hacc⟩ | ⟨_, _, _, _, _, hacc⟩ <;> rw [hacc]

/-- Taking the input sample turns the first offers into waiting commands, which keep their place. -/
@[simp] theorem outstanding_sample (s : State) : outstanding (sample s) = outstanding s := by
  cases hinputs : s.inputs with
  | nil => simp [outstanding, currentInput_of_nil hinputs, Input.quiet, hinputs]
  | cons x xs => simp [outstanding, currentInput_of_cons hinputs, hinputs]

/-- Acceptance into an empty flight moves a command only past those of other hosts. -/
theorem filter_outstanding_accept (arb : Nat → Nat) (hflight : s.inFlight = none) (h : HostId) :
    (outstanding (accept arb s)).filter (fun c => c.host == h) =
      (outstanding s).filter (fun c => c.host == h) := by
  rcases accept_cases arb s with ⟨_, hacc⟩ | ⟨pre, c, post, hsplit, hpre, hacc⟩
  case inl => rw [hacc]; rfl
  case inr =>
    rw [hacc]
    by_cases hc : c.host = h
    · have hnone : pre.filter (fun c => c.host == h) = [] := by simpa [← hc] using hpre
      simp [outstanding, hflight, hsplit, hnone, hc]
    · simp [outstanding, hflight, hsplit, hc]

/-! ### One step -/

/-- With reset released the coming step completes the command in flight. -/
theorem completing_of_not_reset (h : (currentInput s).reset = false) :
    completing s = s.inFlight.toList := by
  simp [completing, h]

/-- The coming sample is one of those in which reset is released. -/
theorem NoReset.currentInput_reset (h : NoReset s) : (currentInput s).reset = false := by
  cases hinputs : s.inputs with
  | nil => simp [currentInput_of_nil hinputs, Input.quiet]
  | cons x xs =>
    rw [currentInput_of_cons hinputs]
    exact h x (by simp [hinputs])

/-- With no inputs listed reset stays released. -/
theorem NoReset.of_nil (h : s.inputs = []) : NoReset s := by simp [NoReset, h]

/-- Reset stays released after the sample is taken. -/
theorem NoReset.of_inputs_eq_tail (h : NoReset s) (ht : t.inputs = s.inputs.tail) : NoReset t :=
  fun x hx => h x (List.mem_of_mem_tail (ht ▸ hx))

/-- The step from `s` to `t` goes on without reset, serves in sequence what it completes, and keeps each
host's commands in order: first the completed ones, then those still outstanding. -/
structure OrderedStep (s t : State) : Prop where
  noReset : NoReset t
  served : serveAll s.codec (completing s) = (t.codec, t.response.toList)
  kept : ∀ h : HostId, (completing s ++ outstanding t).filter (fun c => c.host == h) =
    (outstanding s).filter (fun c => c.host == h)

/-- Every step without reset is ordered: it executes the command in flight, or accepts one. -/
theorem stepWith_ordered (arb : Nat → Nat) (h : NoReset s) :
    ∃ t, stepWith arb s = .next t ∧ OrderedStep s t := by
  have hreset := h.currentInput_reset
  rcases Option.eq_none_or_eq_some s.inFlight with hflight | ⟨c, hflight⟩
  case inl =>
    have hcompleting : completing s = [] := by simp [completing_of_not_reset hreset, hflight]
    refine ⟨_, stepWith_of_not_inFlight hreset hflight, h.of_inputs_eq_tail (by simp), ?_, ?_⟩
    · simp [hcompleting, serveAll]
    · intro host
      have hflight' : (sample s).inFlight = none := hflight
      rw [hcompleting, List.nil_append, filter_outstanding_accept arb hflight', outstanding_sample]
  case inr =>
    have hcompleting : completing s = [c] := by simp [completing_of_not_reset hreset, hflight]
    obtain ⟨k, r, hserve, hexec⟩ := execute_eq_serve c (sample s)
    rw [sample_codec] at hserve
    refine ⟨_, (stepWith_of_inFlight hreset hflight).trans hexec, h.of_inputs_eq_tail rfl, ?_, ?_⟩
    · simp [hcompleting, serveAll_singleton, hserve]
    · intro host
      rw [hcompleting, ← outstanding_sample s]
      simp [outstanding, hflight]

/-! ### Runs -/

/-- A run that begins with a step. -/
theorem runWith_succ_of_next {n : Nat} (h : stepWith arb s = .next t) :
    runWith arb (n + 1) s = ⟨(runWith arb n t).last, completing s ++ (runWith arb n t).completed,
      t.response.toList ++ (runWith arb n t).delivered⟩ := by
  simp only [runWith, h]

/-- A run without reset delivers, and leaves in the registers, what serving its completed commands in
sequence gives. -/
theorem serveAll_completed (arb : Nat → Nat) (n : Nat) (h : NoReset s) :
    serveAll s.codec (runWith arb n s).completed =
      ((runWith arb n s).last.codec, (runWith arb n s).delivered) := by
  induction n generalizing s with
  | zero => rfl
  | succ n ih =>
    obtain ⟨t, hnext, hstep⟩ := stepWith_ordered arb h
    rw [runWith_succ_of_next hnext, serveAll_append, hstep.served, ih hstep.noReset]

/-- Over a run without reset each host's commands keep their order: first the completed ones, then those
still outstanding. -/
theorem filter_completed_append_outstanding (arb : Nat → Nat) (n : Nat) (host : HostId) (h : NoReset s) :
    ((runWith arb n s).completed ++ outstanding (runWith arb n s).last).filter
        (fun c => c.host == host) =
      (outstanding s).filter (fun c => c.host == host) := by
  induction n generalizing s with
  | zero => rfl
  | succ n ih =>
    obtain ⟨t, hnext, hstep⟩ := stepWith_ordered arb h
    rw [runWith_succ_of_next hnext, List.append_assoc, List.filter_append, ih hstep.noReset,
      ← List.filter_append, hstep.kept host]

/-- Settles O41, by induction on the number of steps, each of which is ordered. -/
theorem sequentialConsistency : Obligations.SequentialConsistency :=
  fun arb n _ h => ⟨serveAll_completed arb n h,
    fun host => filter_completed_append_outstanding arb n host h⟩

end Sys2Proof.Machine
end

section
/-! Two unordered commands (spec/70_reset_and_hazards.md R83): the arbiter's first choice decides which of them
completes first. -/

namespace Sys2Proof.Machine

variable {arb : Nat → Nat} {s : State}

/-- With no inputs listed, taking the sample changes nothing. -/
theorem sample_of_nil (h : s.inputs = []) : sample s = s := by
  cases s
  simp_all [sample, currentInput, Input.quiet]

/-- With nothing more to be offered, two steps from an empty flight accept a command and complete it. -/
theorem completed_of_accept {c : Command} {ws : List Command} (hinputs : s.inputs = [])
    (hflight : s.inFlight = none) (hc : (accept arb s).inFlight = some c)
    (hws : (accept arb s).waiting = ws) :
    ∃ t, t.inputs = [] ∧ t.inFlight = none ∧ t.waiting = ws ∧
      ∀ n, (runWith arb (n + 2) s).completed = c :: (runWith arb n t).completed := by
  have hinputs' : (accept arb s).inputs = [] := by rw [accept_inputs, hinputs]
  have hreset : (currentInput s).reset = false := (NoReset.of_nil hinputs).currentInput_reset
  have hreset' : (currentInput (accept arb s)).reset = false :=
    (NoReset.of_nil hinputs').currentInput_reset
  have hfirst : stepWith arb s = .next (accept arb s) := by
    rw [stepWith_of_not_inFlight hreset hflight, sample_of_nil hinputs]
  obtain ⟨k, r, _, hexec⟩ := execute_eq_serve c (accept arb s)
  have hsecond := stepWith_of_inFlight (arb := arb) hreset' hc
  rw [sample_of_nil hinputs', hexec] at hsecond
  refine ⟨respond r { start c (accept arb s) with codec := k }, hinputs', rfl, hws, fun n => ?_⟩
  rw [runWith_succ_of_next hfirst, runWith_succ_of_next hsecond,
    completing_of_not_reset hreset, completing_of_not_reset hreset', hflight, hc]
  rfl

/-- A command that waits alone is accepted. -/
theorem accept_singleton {c : Command} (h : s.waiting = [c]) :
    (accept arb s).inFlight = some c ∧ (accept arb s).waiting = [] := by
  simp [accept, arbitrate, h, Nat.mod_one]

/-- Of two waiting commands, the one accepted first completes first, and the other after it. -/
theorem completed_pair {c d : Command} (hinputs : s.inputs = []) (hflight : s.inFlight = none)
    (hc : (accept arb s).inFlight = some c) (hd : (accept arb s).waiting = [d]) :
    (runWith arb 4 s).completed = [c, d] := by
  obtain ⟨t, htinputs, htflight, htwaiting, hfirst⟩ := completed_of_accept hinputs hflight hc hd
  obtain ⟨hd_accepted, hnone_left⟩ := accept_singleton (arb := arb) htwaiting
  obtain ⟨u, _, _, _, hsecond⟩ := completed_of_accept htinputs htflight hd_accepted hnone_left
  rw [hfirst 2, hsecond 0]
  rfl

/-- Of two waiting commands, an even choice accepts the first. -/
theorem accept_pair_of_even {a b : Command} (hw : s.waiting = [a, b]) (heven : arb s.tick % 2 = 0) :
    (accept arb s).inFlight = some a ∧ (accept arb s).waiting = [b] := by
  simp [accept, arbitrate, hw, heven]

/-- Of two waiting commands of different hosts, an odd choice accepts the second. -/
theorem accept_pair_of_odd {a b : Command} (hw : s.waiting = [a, b]) (hne : a.host ≠ b.host)
    (hodd : arb s.tick % 2 = 1) :
    (accept arb s).inFlight = some b ∧ (accept arb s).waiting = [a] := by
  have hab : (a.host == b.host) = false := by simp [hne]
  simp [accept, arbitrate, hw, hodd, hab]

/-- Settles O43: the arbiter's first choice fixes the order of completion, both choices exist, and by
sequential consistency the responses and the registers are those of that order. -/
theorem unorderedCommandsHaveBothOutcomes : Obligations.UnorderedCommandsHaveBothOutcomes := by
  intro s a b hflight hwaiting hinputs hne
  have hserved : ∀ {arb : Nat → Nat} {cs : List Command}, (runWith arb 4 s).completed = cs →
      (runWith arb 4 s).delivered = (serveAll s.codec cs).2 ∧
        (runWith arb 4 s).last.codec = (serveAll s.codec cs).1 := by
    rintro arb _ rfl
    rw [serveAll_completed arb 4 (NoReset.of_nil hinputs)]
    exact ⟨rfl, rfl⟩
  have heven : ∀ {arb : Nat → Nat}, arb s.tick % 2 = 0 → (runWith arb 4 s).completed = [a, b] := by
    intro arb harb
    obtain ⟨haccepted, hleft⟩ := accept_pair_of_even hwaiting harb
    exact completed_pair hinputs hflight haccepted hleft
  have hodd : ∀ {arb : Nat → Nat}, arb s.tick % 2 = 1 → (runWith arb 4 s).completed = [b, a] := by
    intro arb harb
    obtain ⟨haccepted, hleft⟩ := accept_pair_of_odd hwaiting hne harb
    exact completed_pair hinputs hflight haccepted hleft
  refine ⟨⟨fun _ => 0, hserved (heven rfl)⟩, ⟨fun _ => 1, hserved (hodd rfl)⟩, fun arb => ?_⟩
  rcases Nat.mod_two_eq_zero_or_one (arb s.tick) with harb | harb
  · exact .inl (hserved (heven harb))
  · exact .inr (hserved (hodd harb))

end Sys2Proof.Machine
end

section
/-! The wire record's bytes and its image on a bus (spec/20_memory.md R20 to R25). -/

namespace Sys2Proof.Machine

/-! ### The record -/

/-- Vectors put side by side, as a number. -/
theorem toNat_append_eq_add {m n : Nat} (x : BitVec m) (y : BitVec n) :
    (x ++ y).toNat = x.toNat * 2 ^ n + y.toNat := by
  rw [BitVec.toNat_append, ← Nat.shiftLeft_add_eq_or_of_lt y.isLt, Nat.shiftLeft_eq]

/-- The magnitude as a number (R23). -/
theorem magnitude_toNat (v : Value) :
    (magnitude v).toNat = v.lo.toNat + v.mid.toNat * 2 ^ 32 + v.hi.toNat * 2 ^ 64 := by
  rw [magnitude, toNat_append_eq_add, toNat_append_eq_add]
  ring

/-- A byte within the low word of the magnitude (R9). -/
theorem extractLsb'_magnitude_lo (v : Value) {j : Nat} (hj : j + 8 ≤ 32) :
    (magnitude v).extractLsb' j 8 = v.lo.extractLsb' j 8 :=
  BitVec.extractLsb'_append_eq_of_add_le hj

/-- A byte within the middle word of the magnitude (R9). -/
theorem extractLsb'_magnitude_mid (v : Value) {j : Nat} (hj : j + 8 ≤ 32) :
    (magnitude v).extractLsb' (j + 32) 8 = v.mid.extractLsb' j 8 := by
  rw [magnitude, BitVec.extractLsb'_append_eq_of_le (Nat.le_add_left 32 j), Nat.add_sub_cancel,
    BitVec.extractLsb'_append_eq_of_add_le hj]

/-- A byte within the high word of the magnitude (R9). -/
theorem extractLsb'_magnitude_hi (v : Value) (j : Nat) :
    (magnitude v).extractLsb' (j + 32 + 32) 8 = v.hi.extractLsb' j 8 := by
  rw [magnitude, BitVec.extractLsb'_append_eq_of_le (Nat.le_add_left 32 _), Nat.add_sub_cancel,
    BitVec.extractLsb'_append_eq_of_le (Nat.le_add_left 32 j), Nat.add_sub_cancel]

/-- The words LO, MID and HI stand at offsets 1, 5 and 9, each the least significant byte first (R22). -/
theorem byteAt_packRecord_words (v : Value) {j : Nat} (hj : j < 4) :
    byteAt (packRecord v) (j + 1) = v.lo.extractLsb' (8 * j) 8 ∧
    byteAt (packRecord v) (j + 5) = v.mid.extractLsb' (8 * j) 8 ∧
    byteAt (packRecord v) (j + 9) = v.hi.extractLsb' (8 * j) 8 := by
  interval_cases j <;> exact ⟨rfl, rfl, rfl⟩

/-- Bytes 1 to 12 of the record are the magnitude's bytes, the least significant first (R22, R23). -/
theorem byteAt_packRecord_succ (v : Value) {i : Nat} (hi : i < 12) :
    byteAt (packRecord v) (i + 1) = (magnitude v).extractLsb' (8 * i) 8 := by
  obtain ⟨q, j, hq, hj, rfl⟩ : ∃ q j, q < 3 ∧ j < 4 ∧ i = j + 4 * q :=
    ⟨i / 4, i % 4, by omega, by omega, by omega⟩
  obtain ⟨hlo, hmid, hhi⟩ := byteAt_packRecord_words v hj
  have hbyte : 8 * j + 8 ≤ 32 := by omega
  rw [Nat.mul_add]
  interval_cases q
  · exact hlo.trans (extractLsb'_magnitude_lo v hbyte).symm
  · exact hmid.trans (extractLsb'_magnitude_mid v hbyte).symm
  · exact hhi.trans (extractLsb'_magnitude_hi v (8 * j)).symm

/-- Bytes 13 to 16 of the record are padding (R24). -/
theorem byteAt_packRecord_padding (v : Value) {i : Nat} (hlow : 13 ≤ i) (hhigh : i ≤ 16) :
    byteAt (packRecord v) i = Config.pad := by
  interval_cases i <;> rfl

/-- Settles O22: each clause is the layout of the record, and a byte of a number is a quotient by a power of
two. -/
theorem recordHoldsMagnitudeLittleEndian : Obligations.RecordHoldsMagnitudeLittleEndian := by
  intro v
  refine ⟨rfl, rfl, fun i hi => ?_, fun i => byteAt_packRecord_padding v, magnitude_toNat v⟩
  rw [byteAt_packRecord_succ v hi, BitVec.extractLsb'_toNat, Nat.shiftRight_eq_div_pow]

/-! ### The bus -/

/-- A byte put below the others on the bus. -/
theorem packBus_cons (b : Byte) (bs : List Byte) :
    packBus (b :: bs) = (packBus bs <<< 8) ||| b.setWidth 136 := rfl

/-- Bit `i` of the bus is bit `i % 8` of byte `i / 8` (R25). -/
theorem getLsbD_packBus (bs : List Byte) {i : Nat} (hi : i < 136) :
    (packBus bs).getLsbD i = (byteAt bs (i / 8)).getLsbD (i % 8) := by
  induction bs generalizing i with
  | nil => simp [packBus, byteAt]
  | cons b bs ih =>
    rw [packBus_cons, BitVec.getLsbD_or, BitVec.getLsbD_shiftLeft, BitVec.getLsbD_setWidth]
    by_cases hlow : i < 8
    · simp [hi, hlow, byteAt, Nat.div_eq_of_lt hlow, Nat.mod_eq_of_lt hlow]
    · have hdiv : i / 8 = (i - 8) / 8 + 1 := by omega
      have hmod : i % 8 = (i - 8) % 8 := by omega
      have hbeyond : b.getLsbD i = false := BitVec.getLsbD_of_ge b i (by omega)
      rw [hdiv, hmod, ih (by omega)]
      simp [hi, hlow, hbeyond, byteAt]

/-- Byte `k` of the list stands at bits `8k+7 .. 8k` of the bus (R25). -/
theorem extractLsb'_packBus (bs : List Byte) {k : Nat} (hk : k < 17) :
    (packBus bs).extractLsb' (8 * k) 8 = byteAt bs k := by
  ext j hj
  have hbyte : (8 * k + j) / 8 = k := by omega
  have hbit : (8 * k + j) % 8 = j := by omega
  rw [BitVec.getElem_extractLsb', getLsbD_packBus bs (by omega), hbyte, hbit,
    BitVec.getLsbD_eq_getElem hj]

/-- Byte `k` of a bus (R25). -/
theorem byteAt_unpackBus (bus : BitVec 136) {k : Nat} (hk : k < 17) :
    byteAt (unpackBus bus) k = bus.extractLsb' (8 * k) 8 := by
  simp [byteAt, unpackBus, Config.recLen, hk]

/-- Unpacking the bus of a record gives the record. -/
theorem unpackBus_packBus {bs : List Byte} (hlen : bs.length = 17) : unpackBus (packBus bs) = bs := by
  refine List.ext_getElem (by simp [unpackBus, Config.recLen, hlen]) fun k _ hk => ?_
  have hbyte : byteAt bs k = bs[k] := by simp [byteAt, hk]
  rw [← hbyte, ← extractLsb'_packBus bs (hlen ▸ hk)]
  simp [unpackBus]

/-- Packing the bytes of a bus gives the bus. -/
theorem packBus_unpackBus (bus : BitVec 136) : packBus (unpackBus bus) = bus := by
  ext i hi
  rw [← BitVec.getLsbD_eq_getElem, getLsbD_packBus _ hi, byteAt_unpackBus bus (by omega),
    BitVec.getLsbD_extractLsb', Nat.div_add_mod]
  simp [Nat.mod_lt, BitVec.getLsbD_eq_getElem hi]

/-- Settles O23: the byte placement and the two round trips. -/
theorem busCarriesTheRecord : Obligations.BusCarriesTheRecord :=
  ⟨fun bs hlen => ⟨fun _ => extractLsb'_packBus bs, unpackBus_packBus hlen⟩, packBus_unpackBus⟩

end Sys2Proof.Machine
end

section
/-! The decoder and the encoder (spec/30_encoding.md R33, R34, R39 to R43): the two fields OP and RSV are
the whole command word, OP selects the row of the opcode map, and the encoder writes the row's word. -/

namespace Sys2Proof

/-! ### The fields of the command word -/

/-- The OP values of the opcode map (R39). -/
def mappedOps : List Byte := [0x01#8, 0x02#8, 0x03#8, 0x04#8, 0x05#8, 0x10#8, 0x11#8, 0x20#8]

/-- RSV and OP side by side are the command word (R34). -/
theorem rsvField_append_opField (cmd : Word) : rsvField cmd ++ opField cmd = cmd :=
  BitVec.extractLsb'_append_extractLsb'

/-- A command word with RSV zero is its OP, so its two fields determine it. -/
theorem cmd_eq_iff {cmd w : Word} (hw : rsvField w = 0#24) :
    cmd = w ↔ opField cmd = opField w ∧ rsvField cmd = 0#24 := by
  refine ⟨by rintro rfl; exact ⟨rfl, hw⟩, fun ⟨hop, hrsv⟩ => ?_⟩
  rw [← rsvField_append_opField cmd, ← rsvField_append_opField w, hop, hrsv, hw]

/-- OP as a number (R34). -/
theorem opField_toNat (cmd : Word) : (opField cmd).toNat = cmd.toNat % 256 := by
  simp [opField]

/-- RSV as a number (R34). -/
theorem rsvField_toNat (cmd : Word) : (rsvField cmd).toNat = cmd.toNat / 256 := by
  have hlt : cmd.toNat < 2 ^ 32 := cmd.isLt
  rw [rsvField, BitVec.extractLsb'_toNat, Nat.shiftRight_eq_div_pow]
  omega

/-- OP is in the opcode map exactly when the command word's low byte is one of the map's numbers. -/
theorem opField_mem_mappedOps_iff (cmd : Word) :
    opField cmd ∈ mappedOps ↔ cmd.toNat % 256 ∈ [1, 2, 3, 4, 5, 16, 17, 32] := by
  rw [← opField_toNat]
  exact (List.mem_map_of_injective fun _ _ => BitVec.eq_of_toNat_eq).symm

/-- RSV is zero exactly when the command word has no bit above its low byte. -/
theorem rsvField_eq_zero_iff (cmd : Word) : rsvField cmd = 0#24 ↔ cmd.toNat / 256 = 0 := by
  rw [← rsvField_toNat, ← BitVec.toNat_inj]
  rfl

/-! ### The opcode map -/

/-- What an OP value selects, row by row (R39). -/
theorem selectOp_eq_some_iff {op : Byte} {c : Command} {i : Instr} : selectOp op c = some i ↔
    (op = 0x01#8 ∧ i = .setp c.arg0) ∨ (op = 0x02#8 ∧ i = .sets c.arg0) ∨
    (op = 0x03#8 ∧ i = .cfg c.arg0 c.arg1) ∨ (op = 0x04#8 ∧ i = .getp) ∨
    (op = 0x05#8 ∧ i = .gets) ∨ (op = 0x10#8 ∧ i = .enc c.vin) ∨
    (op = 0x11#8 ∧ i = .dec c.bin) ∨ (op = 0x20#8 ∧ i = .getid) := by
  unfold selectOp
  split <;> simp_all [eq_comm]

/-- An OP value selects no instruction exactly when it is not in the map (R40). -/
theorem selectOp_eq_none_iff {op : Byte} {c : Command} : selectOp op c = none ↔ op ∉ mappedOps := by
  unfold selectOp
  split <;> simp_all [mappedOps]

/-- The opcode map does not read HOST (R33). -/
theorem selectOp_host (op : Byte) (c : Command) (h : HostId) :
    selectOp op { c with host := h } = selectOp op c := rfl

/-! ### Decoding -/

/-- An OP outside the map is UNKNOWN_OP, whatever RSV is (R40, R41). -/
theorem decode_of_unmapped {c : Command} (hop : opField c.cmd ∉ mappedOps) :
    decode c = .error .unknownOp := by
  simp only [decode, selectOp_eq_none_iff.mpr hop]

/-- An OP of the map under a non-zero RSV is RSV_NONZERO (R41). -/
theorem decode_of_reserved {c : Command} (hop : opField c.cmd ∈ mappedOps)
    (hrsv : rsvField c.cmd ≠ 0#24) : decode c = .error .rsvNonzero := by
  cases hsel : selectOp (opField c.cmd) c with
  | none => exact absurd hop (selectOp_eq_none_iff.mp hsel)
  | some i => simp only [decode, hsel, if_neg hrsv]

/-- A command decodes to what its OP selects, provided that RSV is zero (R39). -/
theorem decode_eq_ok_iff {c : Command} {i : Instr} :
    decode c = .ok i ↔ selectOp (opField c.cmd) c = some i ∧ rsvField c.cmd = 0#24 := by
  unfold decode
  split
  case h_1 hsel => simp [hsel]
  case h_2 j hsel => split <;> simp_all

/-- An OP of the map with RSV zero decodes. -/
theorem exists_decode_eq_ok {c : Command} (hop : opField c.cmd ∈ mappedOps)
    (hrsv : rsvField c.cmd = 0#24) : ∃ i, decode c = .ok i := by
  cases hsel : selectOp (opField c.cmd) c with
  | none => exact absurd hop (selectOp_eq_none_iff.mp hsel)
  | some i => exact ⟨i, decode_eq_ok_iff.mpr ⟨hsel, hrsv⟩⟩

/-- Settles O6: each row of the opcode map, with RSV zero, is one command word. -/
theorem decodingIsTheOpcodeMap : Obligations.DecodingIsTheOpcodeMap := by
  intro c i
  simp (disch := decide) only [decode_eq_ok_iff, selectOp_eq_some_iff, cmd_eq_iff, or_and_right,
    and_right_comm]
  exact Iff.rfl

/-! ### Encoding -/

/-- The encoding, from any host, has the command word of the instruction. -/
theorem encodeFrom_cmd (h : HostId) (i : Instr) : (encodeFrom h i).cmd = encodeWord i := by
  cases i <;> rfl

/-- The encoding carries a buffer only where the instruction reads it, and comes from its host. -/
theorem encodeFrom_wf {h : HostId} {i : Instr} (hi : i.wf = true) (hh : h < Config.nHosts) :
    (encodeFrom h i).wf = true := by
  have hbin : Buffer.wf (encodeFrom h i).bin = true := by
    cases i with
    | dec bin => exact hi
    | _ => rfl
  rw [Command.wf, hbin]
  exact decide_eq_true hh

/-- The encoding's word has RSV zero and selects its instruction. -/
theorem encodedWord (i : Instr) : Laws.EncodedWord.Statement i := by
  cases i with
  | setp arg0 => exact Laws.EncodedWord.setp arg0
  | sets arg0 => exact Laws.EncodedWord.sets arg0
  | cfg arg0 arg1 => exact Laws.EncodedWord.cfg arg0 arg1
  | getp => exact Laws.EncodedWord.getp
  | gets => exact Laws.EncodedWord.gets
  | enc vin => exact Laws.EncodedWord.enc vin
  | dec bin => exact Laws.EncodedWord.dec bin
  | getid => exact Laws.EncodedWord.getid

/-- Decoding inverts encoding, from any host. -/
theorem decode_encodeFrom (h : HostId) (i : Instr) : decode (encodeFrom h i) = .ok i := by
  obtain ⟨hrsv, hsel⟩ := encodedWord i
  exact decode_eq_ok_iff.mpr ⟨(selectOp_host _ (encode i) h).trans hsel, hrsv⟩

/-- Only an instruction's own command word decodes to it. -/
theorem cmd_eq_encodeWord {c : Command} {i : Instr} (h : decode c = .ok i) : c.cmd = encodeWord i := by
  rcases (decodingIsTheOpcodeMap c i).mp h with
    ⟨hcmd, rfl⟩ | ⟨hcmd, rfl⟩ | ⟨hcmd, rfl⟩ | ⟨hcmd, rfl⟩ | ⟨hcmd, rfl⟩ | ⟨hcmd, rfl⟩ | ⟨hcmd, rfl⟩ |
      ⟨hcmd, rfl⟩ <;> exact hcmd

/-- Settles O7: the encoding selects its instruction with RSV zero, and the opcode map gives no other word
to it. -/
theorem decodeInvertsEncode : Obligations.DecodeInvertsEncode := fun i h hi hh =>
  ⟨decode_encodeFrom h i, encodeFrom_wf hi hh,
    fun _ hc => (cmd_eq_encodeWord hc).trans (encodeFrom_cmd h i).symm⟩

/-- Settles O5: the words are literal, so evaluating the decoder on each decides it. -/
theorem sampleWordsDecode : Obligations.SampleWordsDecode := by
  unfold Obligations.SampleWordsDecode
  decide

end Sys2Proof
end

section
/-! What decoding means for a step: the operand fields that count (spec/30_encoding.md R42), and the illegal
command words (R40, R41). -/

namespace Sys2Proof.Machine

variable {arb : Nat → Nat} {s : State} {c d : Command}

/-- Whether a command decodes, and the cause if it does not, is fixed by its command word alone; if it does,
the operands of its row are those that count (R39, R42). -/
theorem decode_congr (hcmd : c.cmd = d.cmd)
    (harg0 : c.cmd = 0x00000001#32 ∨ c.cmd = 0x00000002#32 ∨ c.cmd = 0x00000003#32 → c.arg0 = d.arg0)
    (harg1 : c.cmd = 0x00000003#32 → c.arg1 = d.arg1) (hvin : c.cmd = 0x00000010#32 → c.vin = d.vin)
    (hbin : c.cmd = 0x00000011#32 → c.bin = d.bin) : decode c = decode d := by
  by_cases hop : opField c.cmd ∈ mappedOps
  case neg => rw [decode_of_unmapped hop, decode_of_unmapped (hcmd ▸ hop)]
  case pos =>
    by_cases hrsv : rsvField c.cmd = 0#24
    case neg => rw [decode_of_reserved hop hrsv, decode_of_reserved (hcmd ▸ hop) (hcmd ▸ hrsv)]
    case pos =>
      obtain ⟨i, hdec⟩ := exists_decode_eq_ok hop hrsv
      rw [hdec, eq_comm, decodingIsTheOpcodeMap d i, ← hcmd]
      rcases (decodingIsTheOpcodeMap c i).mp hdec with
        ⟨hw, rfl⟩ | ⟨hw, rfl⟩ | ⟨hw, rfl⟩ | ⟨hw, rfl⟩ | ⟨hw, rfl⟩ | ⟨hw, rfl⟩ | ⟨hw, rfl⟩ | ⟨hw, rfl⟩ <;>
        simp_all

/-- Commands that decode alike from the same host execute alike. -/
theorem execute_congr (hdec : decode c = decode d) (hhost : c.host = d.host) (s : State) :
    execute c s = execute d s := by
  have hstart : start c s = start d s := by rw [start, start, hhost]
  rw [execute, execute, hdec, hstart]

/-- Settles O8: under reset the command in flight is dropped unread; otherwise it executes, which depends on
what it decodes to and on its host. -/
theorem unlistedOperandsAreIgnored : Obligations.UnlistedOperandsAreIgnored := by
  intro arb s c d hcmd hhost harg0 harg1 hvin hbin
  have hdec : decode c = decode d := decode_congr hcmd harg0 harg1 hvin hbin
  cases hreset : (currentInput s).reset
  case true =>
    calc stepWith arb { s with inFlight := some c }
      _ = .next (assertReset (sample { s with inFlight := some c })) := stepWith_of_reset hreset
      _ = .next (assertReset (sample { s with inFlight := some d })) := rfl
      _ = stepWith arb { s with inFlight := some d } :=
        (stepWith_of_reset (s := { s with inFlight := some d }) hreset).symm
  case false =>
    calc stepWith arb { s with inFlight := some c }
      _ = execute c (sample { s with inFlight := some c }) := stepWith_of_inFlight hreset rfl
      _ = execute d (sample { s with inFlight := some c }) := execute_congr hdec hhost _
      _ = execute d (sample { s with inFlight := some d }) := rfl
      _ = stepWith arb { s with inFlight := some d } :=
        (stepWith_of_inFlight (s := { s with inFlight := some d }) hreset rfl).symm

/-- A command in flight that does not decode is answered with its cause, and the registers stay. -/
theorem stepWith_of_decode_error {cause : Cause} (hflight : s.inFlight = some c)
    (hreset : (currentInput s).reset = false) (hdec : decode c = .error cause) :
    ∃ t, stepWith arb s = .next t ∧ t.codec = s.codec ∧
      t.response = some ⟨c.host, errorResponse cause⟩ :=
  ⟨_, (stepWith_of_inFlight hreset hflight).trans (execute_of_decode_error hdec), rfl, rfl⟩

/-- Settles O9: OP decides first whether the command is UNKNOWN_OP, and RSV then whether it is
RSV_NONZERO. -/
theorem illegalCommandWordsAreAnswered : Obligations.IllegalCommandWordsAreAnswered := by
  intro arb s c hflight hreset
  rw [← opField_mem_mappedOps_iff]
  refine ⟨fun hop => ?_, fun hop hrsv => ?_⟩
  · exact stepWith_of_decode_error hflight hreset (decode_of_unmapped hop)
  · have hrsv' : rsvField c.cmd ≠ 0#24 := mt (rsvField_eq_zero_iff c.cmd).mp hrsv
    exact stepWith_of_decode_error hflight hreset (decode_of_reserved hop hrsv')

end Sys2Proof.Machine
end

section
/-! The two ways in which an instruction ends: it raises an error, or it commits (spec/00_scope.md R8,
spec/60_exceptions.md R66 to R68). -/

namespace Sys2Proof.Machine

/-- From the state `s` the outcome `o` is a raised error or a commit. -/
def RaisesOrCommits (s : State) (o : Host.Outcome State Fault Refusal) : Prop :=
  (∃ cause, o = raise cause s) ∨ ∃ k p, o = commit k p s

variable {s : State}

theorem RaisesOrCommits.of_raise (cause : Cause) : RaisesOrCommits s (raise cause s) :=
  .inl ⟨cause, rfl⟩

theorem RaisesOrCommits.of_commit (k : Codec) (p : Payload) : RaisesOrCommits s (commit k p s) :=
  .inr ⟨k, p, rfl⟩

theorem RaisesOrCommits.of_answer (p : Payload) : RaisesOrCommits s (answer p s) := .of_commit s.codec p

/-- SETP (R47). -/
theorem execSetp_raisesOrCommits (arg0 : Word) (s : State) : RaisesOrCommits s (execSetp arg0 s) := by
  dsimp only [execSetp]
  split
  · exact .of_raise _
  · split
    · exact .of_raise _
    · exact .of_commit _ _

/-- SETS (R48). -/
theorem execSets_raisesOrCommits (arg0 : Word) (s : State) : RaisesOrCommits s (execSets arg0 s) := by
  dsimp only [execSets]
  split
  · exact .of_raise _
  · exact .of_commit _ _

/-- CFG (R49). -/
theorem execCfg_raisesOrCommits (arg0 arg1 : Word) (s : State) :
    RaisesOrCommits s (execCfg arg0 arg1 s) := by
  dsimp only [execCfg]
  split
  · exact .of_raise _
  · split
    · exact .of_raise _
    · exact .of_commit _ _

/-- ENC (R57). -/
theorem execEnc_raisesOrCommits (vin : Value) (s : State) : RaisesOrCommits s (execEnc vin s) := by
  dsimp only [execEnc]
  split
  · exact .of_raise _
  · exact .of_answer _

/-- DEC (R59). -/
theorem execDec_raisesOrCommits (bin : Buffer) (s : State) : RaisesOrCommits s (execDec bin s) := by
  cases bin with
  | none => exact .of_raise _
  | some bs =>
    dsimp only [execDec]
    split
    · exact .of_raise _
    · exact .of_answer _

/-- Every instruction raises or commits. -/
theorem exec_raisesOrCommits (i : Instr) (s : State) : RaisesOrCommits s (exec i s) := by
  cases i with
  | setp arg0 => exact execSetp_raisesOrCommits arg0 s
  | sets arg0 => exact execSets_raisesOrCommits arg0 s
  | cfg arg0 arg1 => exact execCfg_raisesOrCommits arg0 arg1 s
  | getp => exact .of_answer _
  | gets => exact .of_answer _
  | enc vin => exact execEnc_raisesOrCommits vin s
  | dec bin => exact execDec_raisesOrCommits bin s
  | getid => exact .of_answer _

/-- Only the cause NONE belongs to OK (R69). -/
theorem causeKind_eq_ok_iff {cause : Cause} : causeKind cause = .ok ↔ cause = .none := by
  cases cause <;> decide

/-- Settles O29: raising keeps the registers and carries no payload, and its kind is that of its cause; a
commit's kind is OK and its cause NONE. -/
theorem allOrNothing : Obligations.AllOrNothing := by
  intro i s
  rcases exec_raisesOrCommits i s with ⟨cause, hraise⟩ | ⟨k, p, hcommit⟩
  · exact ⟨s.codec, errorResponse cause, hraise, fun _ => ⟨rfl, rfl⟩, causeKind_eq_ok_iff⟩
  · exact ⟨k, okResponse p, hcommit, fun hne => absurd rfl hne, iff_of_true rfl rfl⟩

end Sys2Proof.Machine
end

section
/-! The assembler on lines whose numbers are decimal numerals (spec/30_encoding.md R44, R45): how a line is
cut into tokens, and that reading a numeral gives the number back. -/

namespace Sys2Proof.Machine

/-! ### Tokens -/

/-- A character that is part of a token longer than itself: no blank, comma, bracket or comment sign. -/
def WordChar (c : Char) : Prop := c ∉ [' ', '\t', ',', '[', ']', ';']

/-- A word: one or more such characters, which make one token. -/
structure IsWord (w : List Char) : Prop where
  ne_nil : w ≠ []
  wordChar : ∀ c ∈ w, WordChar c

variable {w a b : List Char}

/-- The characters of a word join those already read. -/
theorem tokens_append_of_wordChar (hw : ∀ c ∈ w, WordChar c) (cs current : List Char) :
    tokens (w ++ cs) current = tokens cs (w.reverse ++ current) := by
  induction w generalizing current with
  | nil => rfl
  | cons c w ih =>
    obtain ⟨hc, hw⟩ := List.forall_mem_cons.mp hw
    simp only [WordChar, List.mem_cons, List.not_mem_nil, or_false, not_or] at hc
    simp [tokens, hc, ih hw]

/-- The characters read so far make their token. -/
theorem flushToken_reverse (hw : IsWord w) : flushToken w.reverse = [w] := by
  simp [flushToken, hw.ne_nil]

/-- A word that ends the line. -/
theorem tokens_word (hw : IsWord w) : tokens w [] = [w] := by
  simpa [tokens, flushToken_reverse hw] using tokens_append_of_wordChar hw.wordChar [] []

/-- A word that a blank ends. -/
theorem tokens_word_blank (hw : IsWord w) (cs : List Char) :
    tokens (w ++ ' ' :: cs) [] = w :: tokens cs [] := by
  simp [tokens_append_of_wordChar hw.wordChar, tokens, flushToken_reverse hw]

/-- A word that a comma and a blank end; the comma is a token too. -/
theorem tokens_word_comma (hw : IsWord w) (cs : List Char) :
    tokens (w ++ ',' :: ' ' :: cs) [] = w :: [','] :: tokens cs [] := by
  simp [tokens_append_of_wordChar hw.wordChar, tokens, flushToken, hw.ne_nil]

/-- A line without a comment is read whole. -/
theorem stripComment_eq_self {line : List Char} (h : ';' ∉ line) : stripComment line = line := by
  rw [stripComment, List.takeWhile_eq_self_iff]
  intro c hc
  simpa using ne_of_mem_of_not_mem hc h

/-- No word holds a comment sign. -/
theorem IsWord.semicolon_not_mem (hw : IsWord w) : ';' ∉ w :=
  fun h => hw.wordChar ';' h (by simp)

/-- A line of a mnemonic and one operand. -/
theorem assembleLine_one {mnemonic : List Char} (hm : IsWord mnemonic) (ha : IsWord a) :
    assembleLine (mnemonic ++ ' ' :: a) =
      (assembleTokens (mnemonic.map Char.toUpper) [a]).map fun i => [i] := by
  have hline : stripComment (mnemonic ++ ' ' :: a) = mnemonic ++ ' ' :: a :=
    stripComment_eq_self (by simp [hm.semicolon_not_mem, ha.semicolon_not_mem])
  simp only [assembleLine, hline, tokens_word_blank hm, tokens_word ha]

/-- A line of a mnemonic and two operands. -/
theorem assembleLine_two {mnemonic : List Char} (hm : IsWord mnemonic) (ha : IsWord a)
    (hb : IsWord b) :
    assembleLine (mnemonic ++ ' ' :: (a ++ ',' :: ' ' :: b)) =
      (assembleTokens (mnemonic.map Char.toUpper) [a, [','], b]).map fun i => [i] := by
  have hline : stripComment (mnemonic ++ ' ' :: (a ++ ',' :: ' ' :: b)) =
      mnemonic ++ ' ' :: (a ++ ',' :: ' ' :: b) :=
    stripComment_eq_self
      (by simp [hm.semicolon_not_mem, ha.semicolon_not_mem, hb.semicolon_not_mem])
  simp only [assembleLine, hline, tokens_word_blank hm, tokens_word_comma ha, tokens_word hb]

/-! ### Decimal numerals -/

/-- The numeral of a number is made of digits. -/
theorem isDigit_of_mem_numeral {n : Nat} {c : Char} (h : c ∈ Nat.toDigits 10 n) : c.isDigit = true :=
  Nat.isDigit_of_mem_toDigits (by decide) (by decide) h

/-- A digit is part of a word. -/
theorem WordChar.of_isDigit {c : Char} (h : c.isDigit = true) : WordChar c := by
  intro hc
  simp only [List.mem_cons, List.not_mem_nil, or_false] at hc
  rcases hc with rfl | rfl | rfl | rfl | rfl | rfl <;> simp at h

/-- The numeral of a number is a word. -/
theorem isWord_numeral (n : Nat) : IsWord (Nat.toDigits 10 n) :=
  ⟨Nat.toDigits_ne_nil, fun _ hc => .of_isDigit (isDigit_of_mem_numeral hc)⟩

/-- A numeral behind a sign is a word. -/
theorem isWord_signed {sign : Char} (hsign : WordChar sign) (n : Nat) :
    IsWord (sign :: Nat.toDigits 10 n) :=
  ⟨List.cons_ne_nil _ _, List.forall_mem_cons.mpr ⟨hsign, (isWord_numeral n).wordChar⟩⟩

/-- The value of a digit. -/
theorem decDigit_of_isDigit {c : Char} (h : c.isDigit = true) :
    decDigit c = some (c.toNat - '0'.toNat) := by
  have hrange : '0' ≤ c ∧ c ≤ '9' := by simpa [Char.isDigit, Char.le_def] using h
  rw [decDigit, if_pos hrange]

/-- Digits are read as the number that they spell, after what has been read. -/
theorem readDigits_eq_ofDigitChars {ds : List Char} (h : ∀ c ∈ ds, c.isDigit = true) (acc : Nat) :
    readDigits decDigit 10 acc ds = some (Nat.ofDigitChars 10 ds acc) := by
  induction ds generalizing acc with
  | nil => simp [readDigits]
  | cons c ds ih =>
    obtain ⟨hc, hds⟩ := List.forall_mem_cons.mp h
    simp only [readDigits, decDigit_of_isDigit hc, ih hds, Nat.ofDigitChars_cons, Nat.mul_comm]

/-- Reading a numeral gives its number back. -/
theorem decNumber_toDigits (n : Nat) : decNumber (Nat.toDigits 10 n) = some n := by
  rw [decNumber, readDigits_eq_ofDigitChars fun _ => isDigit_of_mem_numeral,
    Nat.ofDigitChars_ten_toDigits]
  simp

/-! ### Integers -/

/-- The spelling of an integer: a minus sign where it is negative, then its numeral. -/
def intSpelling (v : Int) : List Char := (if v < 0 then ['-'] else []) ++ Nat.toDigits 10 v.natAbs

theorem intSpelling_of_neg {v : Int} (h : v < 0) : intSpelling v = '-' :: Nat.toDigits 10 v.natAbs := by
  rw [intSpelling, if_pos h, List.singleton_append]

theorem intSpelling_of_nonneg {v : Int} (h : 0 ≤ v) : intSpelling v = Nat.toDigits 10 v.natAbs := by
  rw [intSpelling, if_neg (not_lt.mpr h), List.nil_append]

/-- The spelling of an integer is a word. -/
theorem isWord_intSpelling (v : Int) : IsWord (intSpelling v) := by
  rcases lt_or_ge v 0 with hneg | hnonneg
  · rw [intSpelling_of_neg hneg]
    exact isWord_signed (by simp [WordChar]) _
  · rw [intSpelling_of_nonneg hnonneg]
    exact isWord_numeral _

/-- Digits alone are no `0x` word and have no sign. -/
theorem parseInt_of_digits {ds : List Char} (h : ∀ c ∈ ds, c.isDigit = true) :
    parseInt ds = (decNumber ds).bind fun n => intOperand n := by
  unfold parseInt
  split
  case h_1 => simp at h
  case h_2 => simp at h
  case h_3 => simp at h
  case h_4 => rfl

/-- Reading the spelling of an integer gives the operand of that integer. -/
theorem parseInt_intSpelling (v : Int) : parseInt (intSpelling v) = intOperand v := by
  rcases lt_or_ge v 0 with hneg | hnonneg
  · have habs : -(v.natAbs : Int) = v := by omega
    rw [intSpelling_of_neg hneg, parseInt, decNumber_toDigits, Option.bind_some, habs]
  · have habs : (v.natAbs : Int) = v := by omega
    rw [intSpelling_of_nonneg hnonneg, parseInt_of_digits fun _ => isDigit_of_mem_numeral,
      decNumber_toDigits, Option.bind_some, habs]

/-- An integer of 32 bits is the two's complement value of its operand. -/
theorem intOperand_of_fits {v : Int} (hmin : -(2 ^ 31) ≤ v) (hmax : v < 2 ^ 31) :
    ∃ w : Word, intOperand v = some w ∧ w.toInt = v :=
  ⟨BitVec.ofInt 32 v, if_pos ⟨hmin, Int.le_sub_one_of_lt hmax⟩,
    BitVec.toInt_ofInt_eq_self (by decide) hmin hmax⟩

/-- No other integer is an operand. -/
theorem intOperand_of_not_fits {v : Int} (h : v < -(2 ^ 31) ∨ 2 ^ 31 ≤ v) : intOperand v = none :=
  if_neg (by omega)

/-- A SETP line with the spelling of an integer assembles to the SETP of its operand. -/
theorem assembleLine_setp (v : Int) :
    assembleLine ("SETP".toList ++ ' ' :: intSpelling v) =
      (intOperand v).map fun w => [Instr.setp w] := by
  have hmnemonic : IsWord "SETP".toList := ⟨by simp, by simp [WordChar]⟩
  have htokens : assembleTokens ("SETP".toList.map Char.toUpper) [intSpelling v] =
      (parseInt (intSpelling v)).map Instr.setp := rfl
  rw [assembleLine_one hmnemonic (isWord_intSpelling v), htokens, parseInt_intSpelling, Option.map_map]
  rfl

/-- Settles O47: the line is that of the integer's spelling, which assembles to its operand. -/
theorem assembledIntegerIsTwosComplement : Obligations.AssembledIntegerIsTwosComplement := by
  rintro v line rfl
  have hline : assembleLine ("SETP ".toList ++ (if v < 0 then ['-'] else []) ++
      Nat.toDigits 10 v.natAbs) = (intOperand v).map fun w => [Instr.setp w] := by
    rw [List.append_assoc]
    exact assembleLine_setp v
  rw [hline]
  refine ⟨fun hmin hmax => ?_, fun hout => ?_⟩
  · obtain ⟨w, hw, hval⟩ := intOperand_of_fits hmin hmax
    exact ⟨w, by rw [hw, Option.map_some], hval⟩
  · rw [intOperand_of_not_fits hout, Option.map_none]

/-! ### Values -/

/-- The sign of a value as its line spells it. -/
def signChar (neg : Bool) : Char := if neg then '-' else '+'

theorem wordChar_signChar (neg : Bool) : WordChar (signChar neg) := by
  cases neg <;> simp [signChar, WordChar]

/-- A value holds the magnitude that it was made from (R9). -/
theorem magnitude_valueOf (neg : Bool) (m : Magnitude) (vs : BitVec 8) :
    magnitude (valueOf neg m vs) = m := by
  apply BitVec.eq_of_toNat_eq
  have hlt : m.toNat < 2 ^ 96 := m.isLt
  rw [magnitude_toNat]
  simp only [valueOf, BitVec.extractLsb'_toNat, Nat.shiftRight_eq_div_pow]
  omega

/-- Reading the numerals of a magnitude and a scale gives the value with them. -/
theorem parseSignMag_numerals (neg : Bool) (m vs : Nat) :
    parseSignMag (signChar neg :: Nat.toDigits 10 m) (Nat.toDigits 10 vs) = valueOperand neg m vs := by
  cases neg <;> simp [signChar, parseSignMag, decNumber_toDigits]

/-- An ENC line with a sign and the numerals of a magnitude and a scale assembles to the ENC of the value
with them. -/
theorem assembleLine_enc (neg : Bool) (m vs : Nat) :
    assembleLine ("ENC".toList ++ ' ' ::
        (signChar neg :: Nat.toDigits 10 m ++ ',' :: ' ' :: Nat.toDigits 10 vs)) =
      (valueOperand neg m vs).map fun v => [Instr.enc v] := by
  have hmnemonic : IsWord "ENC".toList := ⟨by simp, by simp [WordChar]⟩
  have htokens : assembleTokens ("ENC".toList.map Char.toUpper)
      [signChar neg :: Nat.toDigits 10 m, [','], Nat.toDigits 10 vs] =
      (parseSignMag (signChar neg :: Nat.toDigits 10 m) (Nat.toDigits 10 vs)).map Instr.enc := rfl
  rw [assembleLine_two hmnemonic (isWord_signed (wordChar_signChar neg) m) (isWord_numeral vs),
    htokens, parseSignMag_numerals, Option.map_map]
  rfl

/-- Settles O46: within the bounds the line assembles to the value with its numbers, which the vectors hold
without loss. -/
theorem assembledValueIsTheOneWritten : Obligations.AssembledValueIsTheOneWritten := by
  intro neg m vs hm hvs
  refine ⟨valueOf neg (BitVec.ofNat 96 m) (BitVec.ofNat 8 vs), ?_, rfl, ?_, ?_⟩
  · have hvalue : valueOperand neg m vs =
        some (valueOf neg (BitVec.ofNat 96 m) (BitVec.ofNat 8 vs)) := if_pos ⟨hm, hvs⟩
    have hline := assembleLine_enc neg m vs
    rw [hvalue, Option.map_some] at hline
    simpa [signChar] using hline
  · rw [magnitude_valueOf, BitVec.toNat_ofNat, Nat.mod_eq_of_lt hm]
  · exact Nat.mod_eq_of_lt (Nat.lt_succ_of_le hvs)

/-! ### The worked examples -/

/-- Settles O45: the lines are literal, so evaluating the assembler on each decides it. -/
theorem assemblerExamples : Obligations.AssemblerExamples := by
  unfold Obligations.AssemblerExamples
  decide

end Sys2Proof.Machine
end

section
/-! The configuration commands, one equation for each branch of their rules, and what CFG can reach
(spec/40_config.md R47 to R51). -/

namespace Sys2Proof.Machine

variable {arg0 arg1 : Word} {s : State} {k : Codec}

/-! ### The range checks and the registers as words -/

/-- The precisions rejected are those outside 1 to 38. -/
theorem precOutOfRange_eq_true_iff (p : Int) : precOutOfRange p = true ↔ p < 1 ∨ 38 < p := by
  rw [← Bool.not_eq_false, precOutOfRange_eq_false_iff]
  omega

/-- The scales rejected are those outside 0 to the bound. -/
theorem scaleOutOfRange_eq_true_iff (sc bound : Int) :
    scaleOutOfRange sc bound = true ↔ sc < 0 ∨ bound < sc := by
  rw [← Bool.not_eq_false, scaleOutOfRange_eq_false_iff]
  omega

/-- Zero extension keeps the number that a register holds. -/
@[simp] theorem zext32_toNat (r : Reg6) : (zext32 r).toNat = r.toNat :=
  BitVec.toNat_setWidth_of_le (by decide)

/-- As an operand, a zero-extended register is not negative. -/
@[simp] theorem sint_zext32 (r : Reg6) : sint (zext32 r) = r.toNat := by
  have hlt : 2 * (zext32 r).toNat < 2 ^ 32 := by
    rw [zext32_toNat]
    omega
  rw [sint, BitVec.toInt_eq_toNat_of_lt hlt, zext32_toNat]

/-- A register that holds a number gets it back from the number's low six bits. -/
@[simp] theorem lowSix_natCast_toNat (r : Reg6) : lowSix (r.toNat : Int) = r := by
  simp [lowSix]

/-! ### The branches -/

/-- SETP's first check (R47). -/
theorem exec_setp_of_precOutOfRange (hp : precOutOfRange (sint arg0) = true) :
    exec (.setp arg0) s = raise .precRange s :=
  if_pos hp

/-- SETP's second check: a precision in range that is below SCALE (R47). -/
theorem exec_setp_of_lt_scale (hp : precOutOfRange (sint arg0) = false)
    (hbelow : sint arg0 < s.codec.scale.toNat) :
    exec (.setp arg0) s = raise .precBelowScale s := by
  simp [exec, execSetp, hp, hbelow]

/-- SETP's write (R47). -/
theorem exec_setp_of_inRange (hp : precOutOfRange (sint arg0) = false)
    (hscale : s.codec.scale.toNat ≤ sint arg0) :
    exec (.setp arg0) s = commit ⟨lowSix (sint arg0), s.codec.scale⟩ Payload.zero s := by
  simp [exec, execSetp, hp, hscale.not_gt, plainPayload]

/-- SETS's check (R48). -/
theorem exec_sets_of_scaleOutOfRange
    (hsc : scaleOutOfRange (sint arg0) s.codec.precision.toNat = true) :
    exec (.sets arg0) s = raise .scaleRange s :=
  if_pos hsc

/-- SETS's write (R48). -/
theorem exec_sets_of_inRange
    (hsc : scaleOutOfRange (sint arg0) s.codec.precision.toNat = false) :
    exec (.sets arg0) s = commit ⟨s.codec.precision, lowSix (sint arg0)⟩ Payload.zero s := by
  simp [exec, execSets, hsc, plainPayload]

/-- CFG's first check (R49). -/
theorem exec_cfg_of_precOutOfRange (hp : precOutOfRange (sint arg0) = true) :
    exec (.cfg arg0 arg1) s = raise .precRange s :=
  if_pos hp

/-- CFG's second check, of the scale against the new precision (R49). -/
theorem exec_cfg_of_scaleOutOfRange (hp : precOutOfRange (sint arg0) = false)
    (hsc : scaleOutOfRange (sint arg1) (sint arg0) = true) :
    exec (.cfg arg0 arg1) s = raise .scaleRange s := by
  simp [exec, execCfg, hp, hsc]

/-- CFG's two writes (R49). -/
theorem exec_cfg_of_inRange (hp : precOutOfRange (sint arg0) = false)
    (hsc : scaleOutOfRange (sint arg1) (sint arg0) = false) :
    exec (.cfg arg0 arg1) s = commit ⟨lowSix (sint arg0), lowSix (sint arg1)⟩ Payload.zero s := by
  simp [exec, execCfg, hp, hsc, plainPayload]

/-! ### Results -/

/-- Settles O11: the cases are SETP's three branches, and a precision that passes the checks fits its
register. -/
theorem setpResult : Obligations.SetpResult := by
  intro arg0 s
  refine ⟨fun c hcmd => (decodingIsTheOpcodeMap c _).mpr (by simp [hcmd]), fun hout => ?_,
    fun hmin hmax hbelow => ?_, fun hmin hmax hscale => ?_⟩
  · exact exec_setp_of_precOutOfRange ((precOutOfRange_eq_true_iff _).mpr hout)
  · exact exec_setp_of_lt_scale ((precOutOfRange_eq_false_iff _).mpr ⟨hmin, hmax⟩) hbelow
  · exact ⟨lowSix arg0.toInt, lowSix_toNat (by omega) (by omega),
      exec_setp_of_inRange ((precOutOfRange_eq_false_iff _).mpr ⟨hmin, hmax⟩) hscale⟩

/-- Settles O12: the cases are SETS's two branches; a scale up to PRECISION fits SCALE because PRECISION
has six bits too, in range or not. -/
theorem setsResult : Obligations.SetsResult := by
  intro arg0 s
  refine ⟨fun c hcmd => (decodingIsTheOpcodeMap c _).mpr (by simp [hcmd]), fun hout => ?_,
    fun hmin hmax => ?_⟩
  · exact exec_sets_of_scaleOutOfRange ((scaleOutOfRange_eq_true_iff _ _).mpr hout)
  · have hfits : arg0.toInt < 64 := by omega
    exact ⟨lowSix arg0.toInt, lowSix_toNat hmin hfits,
      exec_sets_of_inRange ((scaleOutOfRange_eq_false_iff _ _).mpr ⟨hmin, hmax⟩)⟩

/-- Settles O13: the cases are CFG's three branches, and operands that pass the checks fit the
registers. -/
theorem cfgResult : Obligations.CfgResult := by
  intro arg0 arg1 s
  refine ⟨fun c hcmd => (decodingIsTheOpcodeMap c _).mpr (by simp [hcmd]), fun hout => ?_,
    fun hmin hmax hout => ?_, fun hmin hmax hsmin hsmax => ?_⟩
  · exact exec_cfg_of_precOutOfRange ((precOutOfRange_eq_true_iff _).mpr hout)
  · exact exec_cfg_of_scaleOutOfRange ((precOutOfRange_eq_false_iff _).mpr ⟨hmin, hmax⟩)
      ((scaleOutOfRange_eq_true_iff _ _).mpr hout)
  · exact ⟨lowSix arg0.toInt, lowSix arg1.toInt, lowSix_toNat (by omega) (by omega),
      lowSix_toNat hsmin (by omega),
      exec_cfg_of_inRange ((precOutOfRange_eq_false_iff _).mpr ⟨hmin, hmax⟩)
        ((scaleOutOfRange_eq_false_iff _ _).mpr ⟨hsmin, hsmax⟩)⟩

/-- Settles O14: both commands answer with the zero extension of their register, which holds the register's
number; INV is about those numbers. -/
theorem getpGetsResult : Obligations.GetpGetsResult := by
  refine ⟨fun c => ⟨fun hcmd => (decodingIsTheOpcodeMap c _).mpr (by simp [hcmd]),
    fun hcmd => (decodingIsTheOpcodeMap c _).mpr (by simp [hcmd])⟩, fun s => ?_⟩
  refine ⟨zext32 s.codec.precision, zext32 s.codec.scale, zext32_toNat _, zext32_toNat _, rfl, rfl,
    fun hinv => ?_⟩
  simpa only [zext32_toNat] using hinv

/-! ### What CFG reaches -/

/-- A raised error is not a success. -/
theorem raise_ne_ok {cause : Cause} (hcause : cause ≠ .none) {t : State} {d : Delivery}
    (hresp : t.response = some d) (hok : d.response.kind = .ok) : raise cause s ≠ .next t := by
  intro hraise
  rw [raise_next hraise] at hresp
  obtain rfl := Option.some.inj hresp
  exact hcause (causeKind_eq_ok_iff.mp hok)

/-- A legal pair, written as words, passes CFG's checks and is what CFG writes. -/
theorem exec_cfg_zext32 (hk : k.Inv) :
    exec (.cfg (zext32 k.precision) (zext32 k.scale)) s = commit k Payload.zero s := by
  obtain ⟨hmin, hmax, hscale⟩ := hk
  have hp : precOutOfRange (sint (zext32 k.precision)) = false := by
    rw [precOutOfRange_eq_false_iff, sint_zext32]
    omega
  have hsc : scaleOutOfRange (sint (zext32 k.scale)) (sint (zext32 k.precision)) = false := by
    rw [scaleOutOfRange_eq_false_iff, sint_zext32, sint_zext32]
    omega
  simpa using exec_cfg_of_inRange (s := s) hp hsc

/-- Where CFG succeeds, it leaves a legal pair: of its branches only the last one answers OK. -/
theorem inv_of_exec_cfg_ok {t : State} {d : Delivery} (h : exec (.cfg arg0 arg1) s = .next t)
    (hresp : t.response = some d) (hok : d.response.kind = .ok) : t.codec.Inv := by
  cases hp : precOutOfRange (sint arg0)
  case true =>
    exact absurd ((exec_cfg_of_precOutOfRange hp).symm.trans h) (raise_ne_ok (by decide) hresp hok)
  case false =>
    cases hsc : scaleOutOfRange (sint arg1) (sint arg0)
    case true =>
      exact absurd ((exec_cfg_of_scaleOutOfRange hp hsc).symm.trans h)
        (raise_ne_ok (by decide) hresp hok)
    case false =>
      rw [commit_next ((exec_cfg_of_inRange hp hsc).symm.trans h)]
      exact Codec.inv_setBoth hp hsc

/-- Settles O15: a legal pair is reached by the operands that spell it, and CFG commits no other. -/
theorem cfgReachesExactlyTheLegalPairs : Obligations.CfgReachesExactlyTheLegalPairs := by
  intro s k
  constructor
  · intro hk
    exact ⟨zext32 k.precision, zext32 k.scale, exec_cfg_zext32 hk⟩
  · rintro ⟨arg0, arg1, hexec⟩
    exact inv_of_exec_cfg_ok hexec rfl rfl

end Sys2Proof.Machine
end

section
/-! The digit count as a logarithm, the natural precision's hardware test, and ENC (spec/41_encode.md R54 to
R58). -/

namespace Sys2Proof.Machine

/-! ### Digits -/

/-- With fuel for every digit, the count is the length of the decimal numeral: a step of it divides by ten,
which lowers the logarithm by one. -/
theorem digitCount_eq_log {fuel m : Nat} (h : m < 10 ^ (fuel + 1)) :
    digitCount fuel m = Nat.log 10 m + 1 := by
  induction fuel generalizing m with
  | zero => rw [Nat.log_of_lt (by simpa using h), digitCount]
  | succ fuel ih =>
    rw [digitCount]
    split
    case isTrue hsmall => rw [Nat.log_of_lt hsmall]
    case isFalse hlarge =>
      have htenth : m / 10 < 10 ^ (fuel + 1) := Nat.div_lt_of_lt_mul (by rwa [pow_succ'] at h)
      rw [ih htenth, Nat.log_of_one_lt_of_le (by decide) (Nat.le_of_not_lt hlarge)]

/-- A magnitude has fewer than 30 decimal digits (R54). -/
theorem magnitude_lt_pow (m : Magnitude) {p : Nat} (hp : 29 ≤ p) : m.toNat < 10 ^ p :=
  calc m.toNat < 2 ^ 96 := m.isLt
    _ ≤ 10 ^ 29 := by decide
    _ ≤ 10 ^ p := Nat.pow_le_pow_right (by decide) hp

/-- The fuel of `ndigits` suffices for 96 bits; zero counts one digit, as its logarithm is 0 (R54). -/
theorem ndigits_eq_log (m : Magnitude) : ndigits m = Nat.log 10 m.toNat + 1 :=
  digitCount_eq_log (magnitude_lt_pow m le_rfl)

/-- The comparator test: a numeral fits `p` digits when its number is below the power of ten (R54). -/
theorem ndigits_le_iff (m : Magnitude) {p : Nat} (hp : 1 ≤ p) : ndigits m ≤ p ↔ m.toNat < 10 ^ p := by
  rw [ndigits_eq_log, Nat.succ_le_iff]
  rcases Nat.eq_zero_or_pos m.toNat with hzero | hpos
  · simp [hzero, Nat.lt_of_succ_le hp]
  · exact Nat.log_lt_iff_lt_pow (by decide) hpos.ne'

/-- Settles O17: each clause is the logarithm, its comparison with a power of ten, or the width of the
magnitude. -/
theorem ndigitsIsDecimalLength : Obligations.NdigitsIsDecimalLength :=
  ⟨fun m _ => ndigits_eq_log m, rfl, by decide, ndigits_le, fun m _ => ndigits_le_iff m,
    fun m _ => magnitude_lt_pow m⟩

/-! ### Natural precision -/

/-- Settles O18: a maximum is at most `P` when both parts are, and the digits have their comparator; the
sign is no part of the magnitude. -/
theorem naturalPrecisionTest : Obligations.NaturalPrecisionTest := by
  refine ⟨natPrec_eq, fun v b => rfl, fun v p hp => ?_⟩
  rw [natPrec_eq, max_le_iff, ndigits_le_iff _ hp]

/-- The natural precision over the number that the words LO, MID and HI spell (R9, R55). -/
theorem natPrec_eq_log (v : Value) : natPrec v =
    max (Nat.log 10 (v.lo.toNat + v.mid.toNat * 2 ^ 32 + v.hi.toNat * 2 ^ 64) + 1) v.vscale.toNat := by
  rw [natPrec_eq, ndigits_eq_log, magnitude_toNat]

/-! ### ENC -/

/-- Settles O19: the cases are ENC's two branches, and the record's bytes are those of its layout. -/
theorem encResult : Obligations.EncResult := by
  refine ⟨fun c hcmd => (decodingIsTheOpcodeMap c _).mpr (by simp [hcmd]), ?_⟩
  rintro v s m rfl
  rw [← natPrec_eq_log]
  exact ⟨exec_enc_of_lt_natPrec, exec_enc_of_natPrec_le⟩

/-- The response of ENC at a precision: the value's record, or VALUE_PREC (R57, R58). -/
def encResponse (v : Value) (precision : Reg6) : Response :=
  if precision.toNat < natPrec v then errorResponse .valuePrec
  else okResponse (recordPayload (packRecord v))

/-- ENC delivers its response and changes nothing else (R58). -/
theorem exec_enc (v : Value) (s : State) :
    exec (.enc v) s = .next (respond (encResponse v s.codec.precision) s) := by
  rcases Nat.lt_or_ge s.codec.precision.toNat (natPrec v) with hlt | hle
  · rw [exec_enc_of_lt_natPrec hlt, encResponse, if_pos hlt, raise]
  · rw [exec_enc_of_natPrec_le hle, encResponse, if_neg hle.not_gt, answer, commit]

/-- Settles O20: the response of ENC is a function of the value and PRECISION. -/
theorem encReadsOnlyPrecision : Obligations.EncReadsOnlyPrecision := fun v s u hprec =>
  ⟨encResponse v s.codec.precision, exec_enc v s, hprec ▸ exec_enc v u⟩

end Sys2Proof.Machine
end

section
/-! DEC: its branches, what it reads of its buffer, and what it makes of a record that ENC wrote
(spec/42_decode.md R59 to R64). -/

namespace Sys2Proof.Machine

variable {v : Value} {s t : State} {d : Delivery} {bs : List Byte}

/-! ### The branches -/

/-- DEC's first check (R59). -/
theorem exec_dec_none (s : State) : exec (.dec none) s = raise .bufAbsent s := rfl

/-- DEC's second check: a buffer is a record of 17 bytes (R59). -/
theorem exec_dec_of_length_ne (h : bs.length ≠ 17) : exec (.dec (some bs)) s = raise .bufLen s :=
  if_pos h

/-- DEC's answer: the record's value, labelled with SCALE (R59, R60). -/
theorem exec_dec_of_length_eq (h : bs.length = 17) :
    exec (.dec (some bs)) s = answer (valuePayload (unpackRecord bs s.codec.scale)) s :=
  if_neg (not_not.mpr h)

/-- The six bits of SCALE fit the eight of VSCALE (R60). -/
theorem vscale_toNat_of_reg6 (scale : Reg6) : (scale.setWidth 8).toNat = scale.toNat :=
  BitVec.toNat_setWidth_of_le (by decide)

/-- Settles O24: the cases are DEC's three branches, and a record that is written out byte by byte unpacks
to its bytes put together. -/
theorem decResult : Obligations.DecResult := by
  refine ⟨fun c hcmd => (decodingIsTheOpcodeMap c _).mpr (by simp [hcmd]), fun s =>
    ⟨exec_dec_none s, fun _ => exec_dec_of_length_ne, fun _ _ _ _ _ _ _ _ _ _ _ _ _ _ _ _ _ =>
      ⟨s.codec.scale.setWidth 8, vscale_toNat_of_reg6 _, exec_dec_of_length_eq rfl⟩⟩⟩

/-! ### What DEC reads -/

/-- Cutting a byte list short keeps the bytes before the cut. -/
theorem byteAt_take (bs : List Byte) {k n : Nat} (hk : k < n) : byteAt (bs.take n) k = byteAt bs k := by
  simp [byteAt, hk]

/-- Cutting a byte list short keeps the words that end before the cut. -/
theorem wordAt_take (bs : List Byte) {off n : Nat} (h : off + 3 < n) :
    wordAt (bs.take n) off = wordAt bs off := by
  simp only [wordAt]
  rw [byteAt_take bs h, byteAt_take bs (by omega), byteAt_take bs (by omega), byteAt_take bs (by omega)]

/-- The value of a record is that of its first thirteen bytes: the padding is not read (R61). -/
theorem unpackRecord_take (bs : List Byte) (scale : Reg6) :
    unpackRecord (bs.take 13) scale = unpackRecord bs scale := by
  simp only [unpackRecord]
  rw [byteAt_take bs (by decide), wordAt_take bs (by decide), wordAt_take bs (by decide),
    wordAt_take bs (by decide)]

/-- Settles O25: DEC's answer is a function of SCALE and the first thirteen bytes. -/
theorem decReadsOnlyScaleAndThirteenBytes : Obligations.DecReadsOnlyScaleAndThirteenBytes := by
  intro s u bs cs hscale hbs hcs htake
  have hvalue : unpackRecord cs u.codec.scale = unpackRecord bs s.codec.scale := by
    rw [← unpackRecord_take cs, ← htake, unpackRecord_take, hscale]
  have hdec := exec_dec_of_length_eq (s := u) hcs
  rw [hvalue] at hdec
  exact ⟨okResponse (valuePayload (unpackRecord bs s.codec.scale)), rfl, exec_dec_of_length_eq hbs, hdec⟩

/-! ### The round trip -/

/-- A word is its four bytes put together (R22). -/
theorem append_extractLsb'_word (w : Word) :
    w.extractLsb' 24 8 ++ w.extractLsb' 16 8 ++ w.extractLsb' 8 8 ++ w.extractLsb' 0 8 = w := by
  rw [BitVec.extractLsb'_append_extractLsb'_eq_extractLsb' (by decide),
    BitVec.extractLsb'_append_extractLsb'_eq_extractLsb' (by decide),
    BitVec.extractLsb'_append_extractLsb'_eq_extractLsb' (by decide), BitVec.extractLsb'_eq_self]

/-- The sign byte that ENC writes reads back as the sign (R21). -/
theorem signOfByte_signByte (neg : Bool) : signOfByte (signByte neg) = neg := by
  cases neg <;> rfl

/-- Unpacking the record of a value gives the value with the scale it is labelled with: the record holds
everything but the value's own scale (R20, R60). -/
theorem unpackRecord_packRecord (v : Value) (scale : Reg6) :
    unpackRecord (packRecord v) scale = { v with vscale := scale.setWidth 8 } := by
  rw [unpackRecord, Value.mk.injEq]
  exact ⟨signOfByte_signByte v.neg, append_extractLsb'_word v.lo,
    append_extractLsb'_word v.mid, append_extractLsb'_word v.hi, rfl⟩

/-- DEC of a value's record answers with the value, labelled with SCALE (R59, R63). -/
theorem exec_dec_packRecord (v : Value) (s : State) : exec (.dec (some (packRecord v))) s =
    answer (valuePayload { v with vscale := s.codec.scale.setWidth 8 }) s := by
  rw [exec_dec_of_length_eq rfl, unpackRecord_packRecord]

/-- Where ENC succeeds, W is the value's record: of its branches only the second answers OK (R57). -/
theorem payload_w_of_exec_enc_ok (h : exec (.enc v) s = .next t) (hresp : t.response = some d)
    (hok : d.response.kind = .ok) : d.response.payload.w = packRecord v := by
  rcases Nat.lt_or_ge s.codec.precision.toNat (natPrec v) with hlt | hle
  case inl => exact absurd ((exec_enc_of_lt_natPrec hlt).symm.trans h) (raise_ne_ok (by decide) hresp hok)
  case inr =>
    rw [answer_next ((exec_enc_of_natPrec_le hle).symm.trans h)] at hresp
    obtain rfl := Option.some.inj hresp
    rfl

/-- A value with another scale is the same value exactly when the scale is its own. -/
theorem relabel_eq_self_iff (v : Value) (vs : BitVec 8) :
    { v with vscale := vs } = v ↔ v.vscale.toNat = vs.toNat := by
  rw [BitVec.toNat_inj, eq_comm]
  exact ⟨congrArg Value.vscale, fun h => h ▸ rfl⟩

/-- Settles O26: ENC's success carries the value's record, and DEC of it only changes the scale. -/
theorem encodeDecodeRoundTrip : Obligations.EncodeDecodeRoundTrip := by
  intro v s t u d henc hresp hok hcodec
  rw [payload_w_of_exec_enc_ok henc hresp hok, ← hcodec]
  refine ⟨{ v with vscale := u.codec.scale.setWidth 8 }, exec_dec_packRecord v u, rfl, rfl,
    vscale_toNat_of_reg6 _, ?_⟩
  rw [relabel_eq_self_iff, vscale_toNat_of_reg6]

/-! ### The number denoted -/

/-- Another scale on the same sign and magnitude moves the decimal point by the difference (R9, R64). -/
theorem num_relabel (v : Value) (vs : BitVec 8) : num { v with vscale := vs } =
    num v * (10 : ℚ) ^ ((v.vscale.toNat : ℤ) - (vs.toNat : ℤ)) := by
  have hshift : (10 : ℚ) ^ (-(vs.toNat : ℤ)) =
      10 ^ (-(v.vscale.toNat : ℤ)) * 10 ^ ((v.vscale.toNat : ℤ) - (vs.toNat : ℤ)) := by
    rw [← zpow_add₀ (by norm_num)]
    congr 1
    ring
  rw [num, num, mul_assoc _ _ ((10 : ℚ) ^ (_ - _)), ← hshift]
  rfl

/-- Settles O27: DEC of the record gives the value with SCALE for its own scale. -/
theorem decodeRescalesTheNumber : Obligations.DecodeRescalesTheNumber := by
  intro v s t u d henc hresp hok
  rw [payload_w_of_exec_enc_ok henc hresp hok]
  refine ⟨_, _, exec_dec_packRecord v u, rfl, rfl, ?_⟩
  rw [← vscale_toNat_of_reg6 u.codec.scale]
  exact num_relabel v _

end Sys2Proof.Machine
end

section
/-! GETID: one branch, which reads no register (spec/43_identity.md R65). -/

namespace Sys2Proof.Machine

/-- GETID's only branch: it answers with the token in every state (R65). -/
theorem exec_getid (s : State) : exec .getid s = answer (idPayload Config.codecId) s := rfl

/-- An answer delivers OK with its payload to the issuer and keeps the registers. -/
theorem answer_eq_next (p : Payload) (s : State) :
    answer p s = .next { s with response := some ⟨s.issuer, ⟨.ok, .none, p⟩⟩ } := rfl

/-- Settles O28: the opcode map has the word's row, and GETID has no check that could fail. The token's
bytes are never evaluated. -/
theorem getidResult : Obligations.GetidResult :=
  ⟨fun c hcmd => (decodingIsTheOpcodeMap c _).mpr (by simp [hcmd]),
    fun s => (exec_getid s).trans (answer_eq_next (idPayload Config.codecId) s)⟩

end Sys2Proof.Machine
end

section
/-! The status of a response (spec/60_exceptions.md R68 to R70): the codes of its tables, and the errors that
each instruction's own checks can raise. -/

namespace Sys2Proof.Machine

variable {causes : List Cause} {s t : State} {d : Delivery} {o : Host.Outcome State Fault Refusal}

/-! ### The codes -/

/-- Settles O31: both tables are the definitions, row by row. -/
theorem statusCodesAreTheTables : Obligations.StatusCodesAreTheTables := ⟨rfl, rfl⟩

/-- The code of a cause determines it (R69). -/
@[simp] theorem causeOfCode_causeCode (c : Cause) : causeOfCode (causeCode c) = some c := by
  cases c <;> rfl

/-- The reserved codes are 9 to 15 (R69). -/
theorem causeOfCode_eq_none_iff (n : BitVec 4) : causeOfCode n = none ↔ 9 ≤ n.toNat := by
  revert n
  decide

/-! ### The errors of each instruction -/

/-- From the state `s` the outcome `o` is one of the errors `causes`, raised, or a commit. -/
def RaisesAmongOrCommits (causes : List Cause) (s : State) (o : Host.Outcome State Fault Refusal) : Prop :=
  (∃ cause ∈ causes, o = raise cause s) ∨ ∃ k p, o = commit k p s

theorem RaisesAmongOrCommits.of_raise {cause : Cause} (h : o = raise cause s) (hmem : cause ∈ causes) :
    RaisesAmongOrCommits causes s o :=
  .inl ⟨cause, hmem, h⟩

theorem RaisesAmongOrCommits.of_commit {k : Codec} {p : Payload} (h : o = commit k p s) :
    RaisesAmongOrCommits causes s o :=
  .inr ⟨k, p, h⟩

/-- Such an outcome's response has the kind of its cause, and the cause is NONE or one of the list. -/
theorem RaisesAmongOrCommits.status (h : RaisesAmongOrCommits causes s o) (hnext : o = .next t)
    (hresp : t.response = some d) :
    d.response.kind = causeKind d.response.cause ∧ d.response.cause ∈ Cause.none :: causes := by
  rcases h with ⟨cause, hmem, hraise⟩ | ⟨k, p, hcommit⟩
  · rw [raise_next (hraise.symm.trans hnext)] at hresp
    obtain rfl := Option.some.inj hresp
    exact ⟨rfl, List.mem_cons_of_mem _ hmem⟩
  · rw [commit_next (hcommit.symm.trans hnext)] at hresp
    obtain rfl := Option.some.inj hresp
    exact ⟨rfl, List.mem_cons_self⟩

/-- The "raised by" column of R69's table, read by instruction. -/
def errorsOf : Instr → List Cause
  | .setp _ => [.precRange, .precBelowScale]
  | .sets _ => [.scaleRange]
  | .cfg _ _ => [.precRange, .scaleRange]
  | .getp => []
  | .gets => []
  | .enc _ => [.valuePrec]
  | .dec _ => [.bufAbsent, .bufLen]
  | .getid => []

/-- SETP (R47). -/
theorem exec_setp_raisesAmong (arg0 : Word) (s : State) :
    RaisesAmongOrCommits (errorsOf (.setp arg0)) s (exec (.setp arg0) s) := by
  cases hp : precOutOfRange (sint arg0)
  case true => exact .of_raise (exec_setp_of_precOutOfRange hp) (by simp [errorsOf])
  case false =>
    rcases lt_or_ge (sint arg0) s.codec.scale.toNat with hbelow | hscale
    · exact .of_raise (exec_setp_of_lt_scale hp hbelow) (by simp [errorsOf])
    · exact .of_commit (exec_setp_of_inRange hp hscale)

/-- SETS (R48). -/
theorem exec_sets_raisesAmong (arg0 : Word) (s : State) :
    RaisesAmongOrCommits (errorsOf (.sets arg0)) s (exec (.sets arg0) s) := by
  cases hsc : scaleOutOfRange (sint arg0) s.codec.precision.toNat
  case true => exact .of_raise (exec_sets_of_scaleOutOfRange hsc) (by simp [errorsOf])
  case false => exact .of_commit (exec_sets_of_inRange hsc)

/-- CFG (R49). -/
theorem exec_cfg_raisesAmong (arg0 arg1 : Word) (s : State) :
    RaisesAmongOrCommits (errorsOf (.cfg arg0 arg1)) s (exec (.cfg arg0 arg1) s) := by
  cases hp : precOutOfRange (sint arg0)
  case true => exact .of_raise (exec_cfg_of_precOutOfRange hp) (by simp [errorsOf])
  case false =>
    cases hsc : scaleOutOfRange (sint arg1) (sint arg0)
    case true => exact .of_raise (exec_cfg_of_scaleOutOfRange hp hsc) (by simp [errorsOf])
    case false => exact .of_commit (exec_cfg_of_inRange hp hsc)

/-- ENC (R57). -/
theorem exec_enc_raisesAmong (vin : Value) (s : State) :
    RaisesAmongOrCommits (errorsOf (.enc vin)) s (exec (.enc vin) s) := by
  rcases Nat.lt_or_ge s.codec.precision.toNat (natPrec vin) with hlt | hle
  · exact .of_raise (exec_enc_of_lt_natPrec hlt) (by simp [errorsOf])
  · exact .of_commit (exec_enc_of_natPrec_le hle)

/-- DEC (R59). -/
theorem exec_dec_raisesAmong (bin : Buffer) (s : State) :
    RaisesAmongOrCommits (errorsOf (.dec bin)) s (exec (.dec bin) s) := by
  cases bin with
  | none => exact .of_raise (exec_dec_none s) (by simp [errorsOf])
  | some bs =>
    by_cases hlen : bs.length = 17
    · exact .of_commit (exec_dec_of_length_eq hlen)
    · exact .of_raise (exec_dec_of_length_ne hlen) (by simp [errorsOf])

/-- Every instruction raises one of its own errors or commits. -/
theorem exec_raisesAmong (i : Instr) (s : State) : RaisesAmongOrCommits (errorsOf i) s (exec i s) := by
  cases i with
  | setp arg0 => exact exec_setp_raisesAmong arg0 s
  | sets arg0 => exact exec_sets_raisesAmong arg0 s
  | cfg arg0 arg1 => exact exec_cfg_raisesAmong arg0 arg1 s
  | getp => exact .of_commit rfl
  | gets => exact .of_commit rfl
  | enc vin => exact exec_enc_raisesAmong vin s
  | dec bin => exact exec_dec_raisesAmong bin s
  | getid => exact .of_commit (exec_getid s)

/-- Settles O30: an instruction's response carries NONE or one of its own errors; the codes are R69's
table. -/
theorem causesOfEachInstruction : Obligations.CausesOfEachInstruction := by
  refine ⟨fun i s t d hexec hresp => ?_, causeOfCode_causeCode, causeOfCode_eq_none_iff⟩
  obtain ⟨hkind, hcause⟩ := (exec_raisesAmong i s).status hexec hresp
  exact ⟨hkind, by cases i <;> exact hcause⟩

end Sys2Proof.Machine
end

section
/-! An error is no trap (spec/60_exceptions.md R66, R71, R73, R74): it changes no register, so the command fails
alike when it is reissued, and the machine goes on. -/

namespace Sys2Proof.Machine

variable {i : Instr} {s t : State} {d : Delivery}

/-- An instruction that failed has left the registers as they were (R67). -/
theorem codec_eq_of_exec_failed (h : exec i s = .next t) (hresp : t.response = some d)
    (hfailed : d.response.kind ≠ .ok) : t.codec = s.codec := by
  obtain ⟨k, r, hexec, herror, _⟩ := allOrNothing i s
  obtain rfl := Host.Outcome.next.inj (hexec.symm.trans h)
  obtain rfl := Option.some.inj hresp
  obtain ⟨hcodec, _⟩ := herror hfailed
  exact hcodec

/-- Settles O32: the registers alone determine the outcome, and the failed command has not changed them. -/
theorem failedCommandFailsAgain : Obligations.FailedCommandFailsAgain := by
  intro i s t d hexec hresp hfailed
  have hcodec : t.codec = s.codec := codec_eq_of_exec_failed hexec hresp hfailed
  obtain ⟨k', r, hcompletes⟩ := exec_completes i s.codec
  obtain rfl := Host.Outcome.next.inj ((hcompletes.next s rfl).symm.trans hexec)
  exact ⟨_, hcompletes.next _ hcodec, hresp, hcodec⟩

/-- Settles O33: reset and acceptance have a next state by definition, and every command, legal or not,
completes. -/
theorem everyStepHasANextState : Obligations.EveryStepHasANextState := by
  intro arb s
  rcases stepWith_cases arb s with hreset | ⟨c, _, hexec⟩ | haccept
  · exact ⟨_, hreset⟩
  · obtain ⟨k', r, _, _, hnext⟩ := execute_next c s.codec
    exact ⟨_, hexec.trans (hnext (sample s) rfl)⟩
  · exact ⟨_, haccept⟩

end Sys2Proof.Machine
end

section
/-! HOST is no operand (spec/60_exceptions.md R75, R77): it decides where the response goes and nothing else. -/

namespace Sys2Proof.Machine

/-- Decoding does not read HOST (R33, R39). -/
theorem decode_host (c : Command) (h : HostId) : decode { c with host := h } = decode c :=
  decode_congr rfl (fun _ => rfl) (fun _ => rfl) (fun _ => rfl) (fun _ => rfl)

/-- One pair of registers and response serves a command for every host that issues it. -/
theorem execute_host (c : Command) (k : Codec) : ∃ k' r, ∀ (h : HostId) (s : State), s.codec = k →
    execute { c with host := h } s =
      .next (respond r { start { c with host := h } s with codec := k' }) := by
  cases hdec : decode c with
  | ok i =>
    obtain ⟨k', r, hcompletes⟩ := exec_completes i k
    refine ⟨k', r, fun h s hs => ?_⟩
    rw [execute_of_decode_ok ((decode_host c h).trans hdec)]
    exact hcompletes.next _ hs
  | error cause =>
    refine ⟨k, errorResponse cause, fun h s hs => ?_⟩
    rw [execute_of_decode_error ((decode_host c h).trans hdec), ← hs]
    rfl

/-- Served for any host, a command leaves the same registers, and the same response goes to that host. -/
theorem serve_host (k : Codec) (c : Command) :
    ∃ k' r, ∀ h : HostId, serve k { c with host := h } = (k', some ⟨h, r⟩) := by
  obtain ⟨k', r, hexec⟩ := execute_host c k
  refine ⟨k', r, fun h => ?_⟩
  rw [serve, hexec h (State.idle k) rfl]
  rfl

/-- Settles O40: the command as it stands is the command issued by its own host. -/
theorem hostsHaveOnePrivilegeLevel : Obligations.HostsHaveOnePrivilegeLevel := by
  intro k c h
  obtain ⟨k', r, hserve⟩ := serve_host k c
  have hown : serve k c = (k', some ⟨c.host, r⟩) := hserve c.host
  rw [hserve h, hown]
  rfl

end Sys2Proof.Machine
end

section
/-! Bounded liveness (spec/70_reset_and_hazards.md R81, R86, R87): without reset every step takes away some of the
work that is left, and what it removes from the outstanding commands it answers. -/

namespace Sys2Proof.Machine

variable {arb : Nat → Nat} {s t : State}

/-! ### One response for each command -/

/-- Serving commands in sequence gives each of them one response (R81). -/
theorem length_serveAll (k : Codec) (cs : List Command) : (serveAll k cs).2.length = cs.length := by
  induction cs generalizing k with
  | nil => rfl
  | cons c cs ih =>
    obtain ⟨k', r, hidle, _⟩ := execute_eq_serve c (State.idle k)
    have hone : serve k c = (k', some ⟨c.host, r⟩) := hidle
    simp [serveAll, hone, ih]

/-- Two lists that hold the same commands of every host hold the same commands. -/
theorem perm_of_filter_host_eq {cs ds : List Command}
    (h : ∀ host : HostId, cs.filter (fun c => c.host == host) = ds.filter (fun c => c.host == host)) :
    cs.Perm ds := by
  rw [List.perm_iff_count]
  intro c
  have hcount : ∀ es : List Command, (es.filter (fun d => d.host == c.host)).count c = es.count c :=
    fun es => List.count_filter (beq_self_eq_true c.host)
  rw [← hcount cs, h, hcount]

/-- Over a run without reset every outstanding command has been answered or is still outstanding. -/
theorem length_delivered_add_outstanding (arb : Nat → Nat) (n : Nat) (h : NoReset s) :
    (runWith arb n s).delivered.length + (outstanding (runWith arb n s).last).length =
      (outstanding s).length := by
  obtain ⟨hserved, hkept⟩ := sequentialConsistency arb n s h
  have hanswered : (runWith arb n s).delivered.length = (runWith arb n s).completed.length := by
    rw [← length_serveAll s.codec, hserved]
  rw [hanswered, ← List.length_append]
  exact (perm_of_filter_host_eq hkept).length_eq

/-! ### The work left -/

/-- A bound on the steps until nothing is outstanding: one for each input sample, one for a command in flight,
and two, acceptance and completion, for each command that waits or is still to be offered. -/
def workLeft (s : State) : Nat :=
  s.inputs.length + s.inFlight.toList.length +
    2 * (s.waiting.length + (s.inputs.flatMap Input.offers).length)

/-- The bound of the obligation counts two steps for the command in flight too. -/
theorem workLeft_le (s : State) : workLeft s ≤ s.inputs.length + 2 * (outstanding s).length := by
  simp only [workLeft, outstanding, List.length_append]
  omega

/-- Without work left nothing is outstanding. -/
theorem outstanding_eq_nil_of_workLeft (h : workLeft s = 0) : outstanding s = [] := by
  rw [← List.length_eq_zero_iff]
  simp only [workLeft, outstanding, List.length_append] at h ⊢
  omega

/-- Taking a listed input sample is one step of work. -/
theorem workLeft_sample_of_cons {x : Input} {xs : List Input} (h : s.inputs = x :: xs) :
    workLeft (sample s) + 1 = workLeft s := by
  simp only [workLeft, sample_inputs, sample_inFlight, sample_waiting, currentInput_of_cons h, h,
    List.tail_cons, List.length_cons, List.length_append, List.flatMap_cons]
  omega

/-- Taking the input sample adds no work. -/
theorem workLeft_sample_le (s : State) : workLeft (sample s) ≤ workLeft s := by
  cases hinputs : s.inputs with
  | nil => rw [sample_of_nil hinputs]
  | cons x xs => exact (Nat.le_succ _).trans_eq (workLeft_sample_of_cons hinputs)

/-- Completing the command in flight is one step of work. -/
theorem workLeft_execute {c : Command} (hflight : s.inFlight = some c) (h : execute c s = .next t) :
    workLeft t + 1 = workLeft s := by
  obtain ⟨k, r, _, hexec⟩ := execute_eq_serve c s
  obtain rfl := Host.Outcome.next.inj (hexec.symm.trans h)
  simp only [workLeft, respond_inputs, respond_inFlight, respond_waiting, start_inputs, start_inFlight,
    start_waiting, hflight, Option.toList_some, Option.toList_none, List.length_singleton, List.length_nil]
  omega

/-- Acceptance is one step of work, unless nothing waits: the block does not idle while a command waits. -/
theorem workLeft_accept (arb : Nat → Nat) (hflight : s.inFlight = none) :
    (s.waiting = [] ∧ workLeft (accept arb s) = workLeft s) ∨
      workLeft (accept arb s) + 1 = workLeft s := by
  rcases accept_cases arb s with ⟨hnil, hacc⟩ | ⟨pre, c, post, hsplit, _, hacc⟩
  case inl => exact .inl ⟨hnil, by rw [hacc]; rfl⟩
  case inr =>
    right
    rw [hacc]
    simp only [workLeft, hflight, hsplit, Option.toList_some, Option.toList_none, List.length_nil,
      List.length_append, List.length_cons]
    omega

/-- Every step without reset is progress: it completes a command, accepts one, or idles, and it idles only
while it waits for a listed input, or with no work left. -/
theorem workLeft_stepWith (h : NoReset s) (hnext : stepWith arb s = .next t) :
    workLeft t ≤ workLeft s - 1 := by
  have hreset := h.currentInput_reset
  have hsample := workLeft_sample_le s
  rcases Option.eq_none_or_eq_some s.inFlight with hflight | ⟨c, hflight⟩
  case inr =>
    have hexec : execute c (sample s) = .next t := (stepWith_of_inFlight hreset hflight).symm.trans hnext
    have hdone := workLeft_execute (s := sample s) hflight hexec
    omega
  case inl =>
    obtain rfl := Host.Outcome.next.inj ((stepWith_of_not_inFlight hreset hflight).symm.trans hnext)
    rcases workLeft_accept arb (s := sample s) hflight with ⟨hnil, hidle⟩ | haccepted
    case inr => omega
    case inl =>
      rw [hidle]
      cases hinputs : s.inputs with
      | nil =>
        rw [sample_of_nil hinputs] at hnil ⊢
        simp [workLeft, hinputs, hflight, hnil]
      | cons x xs =>
        have htaken := workLeft_sample_of_cons hinputs
        omega

/-- A run without reset does a step of work in each of its steps while work is left. -/
theorem workLeft_runWith (arb : Nat → Nat) (n : Nat) (h : NoReset s) :
    workLeft (runWith arb n s).last ≤ workLeft s - n := by
  induction n generalizing s with
  | zero => rfl
  | succ n ih =>
    obtain ⟨t, hnext, hstep⟩ := stepWith_ordered arb h
    have hfirst := workLeft_stepWith h hnext
    have hrest := ih hstep.noReset
    rw [runWith_succ_of_next hnext]
    dsimp only
    omega

/-- Settles O42: after that many steps no work is left, so nothing is outstanding, and what is no longer
outstanding has been answered. -/
theorem everyOfferedCommandIsAnswered : Obligations.EveryOfferedCommandIsAnswered := by
  intro arb n s h hn
  have hwork : workLeft (runWith arb n s).last = 0 := by
    have hrun := workLeft_runWith arb n h
    have hbound := workLeft_le s
    omega
  have hnone : outstanding (runWith arb n s).last = [] := outstanding_eq_nil_of_workLeft hwork
  refine ⟨hnone, ?_⟩
  simpa [hnone] using length_delivered_add_outstanding arb n h

/-- Settles O36: the step executes the command, and every command, legal or not, ends with a response to its
host. -/
theorem acceptedCommandsComplete : Obligations.AcceptedCommandsComplete := by
  intro arb s c hreset hflight
  obtain ⟨k, r, _, hexec⟩ := execute_eq_serve c (sample s)
  exact ⟨_, ⟨c.host, r⟩, (stepWith_of_inFlight hreset hflight).trans hexec, rfl, rfl, rfl⟩

end Sys2Proof.Machine
end

section
/-! Lowering precision below the current scale (spec/70_reset_and_hazards.md R84). -/

namespace Sys2Proof.Machine

variable {p q : Word} {s : State}

/-- A precision in range and not below SCALE is written, and SCALE stays (R47). -/
theorem exec_setp_writes (hmin : 1 ≤ p.toInt) (hmax : p.toInt ≤ 38) (hscale : s.codec.scale.toNat ≤ p.toInt) :
    ∃ t, exec (.setp p) s = .next t ∧ (t.codec.precision.toNat : Int) = p.toInt ∧
      t.codec.scale = s.codec.scale := by
  obtain ⟨_, _, _, hwrite⟩ := setpResult p s
  obtain ⟨r, hr, hexec⟩ := hwrite hmin hmax hscale
  exact ⟨_, hexec, hr, rfl⟩

/-- A scale up to PRECISION is written (R48). -/
theorem exec_sets_writes (hmin : 0 ≤ q.toInt) (hmax : q.toInt ≤ s.codec.precision.toNat) :
    ∃ t, exec (.sets q) s = .next t ∧ (t.codec.scale.toNat : Int) = q.toInt := by
  obtain ⟨_, _, hwrite⟩ := setsResult q s
  obtain ⟨r, hr, hexec⟩ := hwrite hmin hmax
  exact ⟨_, hexec, hr⟩

/-- Settles O16: SETP alone meets its second check; the scale `q` passes SETS, since it is below PRECISION, and
CFG, which checks it against `p`; and once SCALE is `q` the precision `p` passes SETP. -/
theorem loweringPrecisionBelowScale : Obligations.LoweringPrecisionBelowScale := by
  intro s p q hinv hmin hbelow hq hqp
  obtain ⟨_, hprec_max, hscale⟩ := hinv
  have hmax : p.toInt ≤ 38 := by omega
  refine ⟨?setp_alone, ?sets_then_setp, ?cfg_alone⟩
  case setp_alone =>
    obtain ⟨_, _, hfails, _⟩ := setpResult p s
    exact ⟨_, hfails hmin hmax hbelow, rfl, rfl⟩
  case sets_then_setp =>
    obtain ⟨t, hsets, hscale_q⟩ := exec_sets_writes (s := s) hq (by omega)
    obtain ⟨u, hsetp, hprec_p, hkept⟩ := exec_setp_writes (s := t) hmin hmax (hscale_q.trans_le hqp)
    exact ⟨t, u, hsets, hsetp, hprec_p, hkept ▸ hscale_q⟩
  case cfg_alone =>
    obtain ⟨_, _, _, hwrites⟩ := cfgResult p q s
    obtain ⟨_, _, hprec_p, hscale_q, hcfg⟩ := hwrites hmin hmax hq hqp
    exact ⟨_, hcfg, hprec_p, hscale_q⟩

end Sys2Proof.Machine
end

section
/-! Reset (spec/70_reset_and_hazards.md R79 to R81): a step under reset is `assertReset` of the sampled state. -/

namespace Sys2Proof.Machine

/-- Settles O1: the pair is (18, 0) in `State.reset` and in the state that a step under reset leaves. -/
theorem resetLeavesDefaultConfiguration : Obligations.ResetLeavesDefaultConfiguration :=
  ⟨reset_codec, Codec.reset_inv, fun _ s hreset =>
    ⟨_, stepWith_of_reset hreset, assertReset_codec (sample s)⟩⟩

/-- Settles O34: reset empties the flight and the response port and overwrites the registers, whatever was in
flight. -/
theorem resetAbortsTheCommandInFlight : Obligations.ResetAbortsTheCommandInFlight :=
  fun _ s _ _ hreset => ⟨_, stepWith_of_reset hreset, assertReset_codec (sample s),
    assertReset_inFlight (sample s), assertReset_response (sample s)⟩

/-- Settles O35: the sample moves the offers to the commands that wait, and `assertReset` leaves those alone. -/
theorem offeredCommandsWaitThroughReset : Obligations.OfferedCommandsWaitThroughReset :=
  fun _ _ hreset => stepWith_of_reset hreset

end Sys2Proof.Machine
end
